-- ==== Sys2Proof/Word.lean ====
section
/-! DEFINITION. The word types of the machine (R10, R15, R64, R68). Every value is unsigned. -/

namespace Sys2Proof

/-- A byte: the width of both port registers, of every payload and of every memory cell (R10, R52). -/
abbrev Byte := BitVec 8

/-- A 16-bit target address (R10 `ADDR_BITS`). -/
abbrev Addr := BitVec 16

/-- The 4-bit control line vector (R60). -/
abbrev Lines := BitVec 4

/-- A 24-bit command word, format `command24` (R64, R69). -/
abbrev CommandWord := BitVec 24

/-- A 9-bit micro-op word, format `microop9` (R68, R69). -/
abbrev MicroWord := BitVec 9

end Sys2Proof
end

