-- ==== Sys2Proof/Syntax.lean ====
section
/-! DEFINITION. The instructions: one constructor per row of spec/opcode_table.json, seven commands of format
`command24` (R65) and the two micro-ops of format `microop9` (R68). -/

namespace Sys2Proof

/-- The block's operations. The first seven are commands, the last two are micro-ops, which a command word can never
spell (R68). -/
inductive Instr where
  /-- `ENABLE` (R90). -/
  | enable
  /-- `DISABLE` (R91). -/
  | disable
  /-- `LATCH_LOW b` (R100). -/
  | latchLow (b : Byte)
  /-- `LATCH_HIGH b` (R101). -/
  | latchHigh (b : Byte)
  /-- `STROBE b` (R110). -/
  | strobe (b : Byte)
  /-- `CYCLE a` (R120). -/
  | cycle (a : Addr)
  /-- `TRANSFER` (R122). -/
  | transfer
  /-- `WR_DATA v` (R80). -/
  | wrData (v : Byte)
  /-- `WR_CTRL v` (R81). -/
  | wrCtrl (v : Byte)
deriving DecidableEq, Repr

/-- The word of an instruction in one of the two formats (R69): what the decoder reads and the encoder writes. -/
inductive InstrWord where
  /-- A 24-bit command word (R64). -/
  | command (w : CommandWord)
  /-- A 9-bit micro-op word (R68). -/
  | microop (m : MicroWord)
deriving DecidableEq, Repr

end Sys2Proof
end

