-- ==== Sys2Proof/Config.lean ====
section
/-! DEFINITION. What is fixed for the machine: the spec's constants (R10), the open parameters a model takes as an
argument (R12, R14), and the free values, opaque constants with no body that no proof can evaluate (R16 `draw`). -/

namespace Sys2Proof

/-- R10 `CYCLES`: the address/data cycles of one transfer; the cursor's exit value (R29). -/
def Config.cycles : Nat := 65536

/-- R10 `HI_RELATCH_PERIOD`. -/
def Config.hiRelatchPeriod : Nat := 256

/-- R10 `PROGRESS_PERIOD`. -/
def Config.progressPeriod : Nat := 1024

/-- R10 `FILL`: what a buffer holds past the end of a short file (R167, C4). -/
def Config.fill : Byte := 0xFF

/-- R10 `KB_THRESHOLD`: a size argument up to this counts kilobytes (R166). -/
def Config.kbThreshold : Nat := 64

/-- R10 `MAX_SIZE`: the largest and the default buffer size (R11, R166). -/
def Config.maxSize : Nat := 65536

/-- The target's write effect, open parameter `DEVICE_WRITE` (R50, D5). -/
inductive DeviceWrite where
  /-- The spec's default: the cell becomes the byte written. -/
  | overwrite
  /-- Any other target: the cell becomes the free function `Config.deviceWrite` of its old value and the byte. -/
  | target
deriving DecidableEq, Repr

/-- The open parameters of R12 and R14. No step changes them (R38); they stand in the state so that a statement over
states holds for every value of them. -/
structure Params where
  /-- `PHYS_MAP`, the control-register byte of each of the 16 line vectors (R12, R22, R61, D2). -/
  physMap : Vector Byte 16
  /-- `PORT_ID`: `none` for the fixed default device path, else the text given (R12, R165, D27). No rule reads it. -/
  portId : Option (List Char)
  /-- `DEV_ADDR_BITS`: the number of target address lines (R49, D6). -/
  devAddrBits : Nat
  /-- `DEVICE_WRITE` (R50, D5). -/
  deviceWrite : DeviceWrite
  /-- `PORT_WRITE_FALLIBLE` (R14, R146, D14). -/
  portWriteFallible : Bool
deriving DecidableEq, Repr

/-- The spec's reference defaults: `PHYS_MAP = zext_8` (R61), 16 address lines (R12), `overwrite` (R50), infallible
writes (R14). -/
def Params.reference : Params where
  physMap := #v[0x00, 0x01, 0x02, 0x03, 0x04, 0x05, 0x06, 0x07, 0x08, 0x09, 0x0A, 0x0B, 0x0C, 0x0D, 0x0E, 0x0F]
  portId := none
  devAddrBits := 16
  deviceWrite := .overwrite
  portWriteFallible := false

/-- Free value: did the device take the write of draw `n`? (R48 `w <- draw`.) -/
opaque Config.drawTaken : Nat → Bool

/-- Free value: the address of the unknown device write of draw `n` (R48 `a <- draw`). -/
opaque Config.drawAddr : Nat → Addr

/-- Free value: the byte of the unknown device write of draw `n` (R48 `d <- draw`). -/
opaque Config.drawByte : Nat → Byte

/-- Free value: the line vector on the pins after a `CR` value outside the image of `PHYS_MAP` (R81; log entry 8). -/
opaque Config.drawLines : Nat → Lines

/-- Free value: what a cell of the target holds that nothing has written since the whole-memory draw `epoch`
(R36, R149; log entry 6). -/
opaque Config.devPrior : (epoch cell : Nat) → Byte

/-- Free value: the effect of a write on a target that does not overwrite, a function of the old cell and the byte
(R50, D5; log entry 10). -/
opaque Config.deviceWrite : (old new : Byte) → Byte

end Sys2Proof
end

