-- ==== Sys2Proof/Machine/Flags.lean ====
section
/-! DEFINITION. The block has no flags and no condition codes (R26, R34); its status lines are the four control lines.
This file holds the control line vector (R23, R60), its named states (R62), the edges (R43) and `PHYS_MAP` with its
inverse (R22, R61). -/

namespace Sys2Proof.Machine

/-- The four logical lines of the control line vector (R23). -/
inductive Line where
  /-- Bit 0: the target is in write-accepting mode. -/
  | program
  /-- Bit 1: the low-byte latch line is high, the latch closed. -/
  | addrLowInv
  /-- Bit 2: the high-byte latch line is high, the latch closed. -/
  | addrHighInv
  /-- Bit 3: a strobe pulse is in progress. -/
  | dataStrobe
deriving DecidableEq, Repr

/-- The line's bit position (R23, R60, D1). -/
def Line.bit : Line → Nat
  | .program => 0
  | .addrLowInv => 1
  | .addrHighInv => 2
  | .dataStrobe => 3

/-- The level of a line in a vector: `true` for 1, asserted (R17). -/
def Line.level (x : Line) (l : Lines) : Bool := l.getLsbD x.bit

/-- R43: `o.X = 0` and `n.X = 1`. -/
def Line.rising (x : Line) (o n : Lines) : Bool := !x.level o && x.level n

/-- R43: `o.X = 1` and `n.X = 0`. -/
def Line.falling (x : Line) (o n : Lines) : Bool := x.level o && !x.level n

/-- R47: the line is 1 before and after (steady at 1). -/
def Line.steadyHigh (x : Line) (o n : Lines) : Bool := x.level o && x.level n

/-- The five named control states, all the vectors the block ever writes (R62). -/
inductive Control where
  /-- `C_OFF`: after DISABLE. -/
  | off
  /-- `C_IDLE`: between the operations of a session. -/
  | idle
  /-- `C_LOW_OPEN`: the low latch is open. -/
  | lowOpen
  /-- `C_HIGH_OPEN`: the high latch is open. -/
  | highOpen
  /-- `C_STROBE`: the data strobe is asserted. -/
  | strobe
deriving DecidableEq, Repr

/-- The line vector of a named state (R62, column `L`). -/
def Control.lines : Control → Lines
  | .off => 0x6
  | .idle => 0x7
  | .lowOpen => 0x5
  | .highOpen => 0x3
  | .strobe => 0xF

/-- The five named states, as a list. -/
def Control.all : List Control := [.off, .idle, .lowOpen, .highOpen, .strobe]

/-- `PHYS_MAP(L)`: the byte written to `CR` for a line vector (R22, R61). -/
def phys (p : Params) (l : Lines) : Byte := p.physMap.get l.toFin

/-- The byte written to `CR` for a named control state: `PHYS_MAP(C_…)`. -/
def ctrlByte (p : Params) (c : Control) : Byte := phys p c.lines

/-- Every line vector, the named states first. `PHYS_MAP` need be injective on the named states only (R61), so the
inverse looks for those before the others (log entry 9). -/
def linesNamedFirst : List Lines :=
  Control.all.map Control.lines ++ (List.range 16).map (BitVec.ofNat 4)

/-- `PHYS_MAP⁻¹(v)`: the line vector a `CR` byte carries, `none` outside the image (R23). -/
def physInv (p : Params) (v : Byte) : Option Lines := linesNamedFirst.find? fun l => phys p l == v

/-- `PHYS_MAP` is injective on the five named states (R61). -/
def physInjective (p : Params) : Bool :=
  Control.all.all fun c => Control.all.all fun d => ctrlByte p c != ctrlByte p d || c == d

/-- What the spec asks of the open parameters: `PHYS_MAP` injective on the named states (R61), 1 to 16 address lines
(R49). -/
def paramsWf (p : Params) : Bool :=
  physInjective p && decide (1 ≤ p.devAddrBits) && decide (p.devAddrBits ≤ 16)

end Sys2Proof.Machine
end

