-- ==== Sys2Proof/WellFormed.lean ====
section
/-! DEFINITION. Which instruction terms are well formed. The operand types already bound every operand (a byte, an
address), and every 9-bit word decodes (R68); the one rule left is that the block only ever writes the control register
with `PHYS_MAP(s)` for a named state `s` (R63, R81). The operand bounds of the assembler's numbers (R70) are checked in
Machine/Assembler.lean. -/

namespace Sys2Proof

/-- `v` is the control byte of one of the five named states (R62, R63). -/
def namesControlState (p : Params) (v : Byte) : Bool :=
  Machine.Control.all.any fun c => Machine.ctrlByte p c == v

/-- The instruction is one the block itself can issue: a WR_CTRL writes a named control state (R63, R81). A WR_CTRL of
another value still has the meaning R81 gives it. -/
def Instr.wf (p : Params) : Instr → Bool
  | .wrCtrl v => namesControlState p v
  | _ => true

end Sys2Proof
end

