-- ==== Sys2Proof/Decode.lean ====
section
/-! DEFINITION. The decoder, total on every word and rejecting by name (R64 to R68), and the encoder written from the same
tables. A command word and a micro-op word are two formats of their own (R69): no bit says which one a word is, the
place it stands in does. -/

namespace Sys2Proof

/-- Why a command word is illegal: the four cases of R67. Each of them is the one fault `IllegalCommand`. -/
inductive Illegal where
  /-- `OP` is 0x0 or 0x8 to 0xF. -/
  | reservedOpcode
  /-- `RSV` is not 0. -/
  | reservedBits
  /-- `IMM16[15:8]` is not 0 for a byte operand. -/
  | byteOperandTooWide
  /-- `IMM16` is not 0 for a command without an operand. -/
  | operandNotZero
deriving DecidableEq, Repr

/-- What the decoder answers. -/
inductive Decoded where
  /-- The word is this instruction. -/
  | instr (i : Instr)
  /-- The word is no command, for this reason. -/
  | illegal (r : Illegal)
deriving DecidableEq, Repr

/-- `OP`, bits 23:20 (R64). -/
def opField (w : CommandWord) : BitVec 4 := w.extractLsb' 20 4

/-- `RSV`, bits 19:16 (R64). -/
def rsvField (w : CommandWord) : BitVec 4 := w.extractLsb' 16 4

/-- `IMM16`, bits 15:0 (R64). -/
def immField (w : CommandWord) : Addr := w.extractLsb' 0 16

/-- A command without an operand: `IMM16` must be 0 (R65, R67). -/
def decodeNone (i : Instr) (imm : Addr) : Decoded :=
  if imm = 0 then .instr i else .illegal .operandNotZero

/-- A command with a byte operand `b = IMM16[7:0]`: `IMM16[15:8]` must be 0 (R66, R67). -/
def decodeByte (mk : Byte → Instr) (imm : Addr) : Decoded :=
  if imm.extractLsb' 8 8 = 0 then .instr (mk (imm.extractLsb' 0 8)) else .illegal .byteOperandTooWide

/-- The opcode table R65 on the three fields of the word. -/
def decodeFields (op rsv : BitVec 4) (imm : Addr) : Decoded :=
  if op = 0 ∨ 8 ≤ op.toNat then .illegal .reservedOpcode
  else if rsv ≠ 0 then .illegal .reservedBits
  else if op = 1 then decodeNone .enable imm
  else if op = 2 then decodeNone .disable imm
  else if op = 3 then decodeByte .latchLow imm
  else if op = 4 then decodeByte .latchHigh imm
  else if op = 5 then decodeByte .strobe imm
  else if op = 6 then .instr (.cycle imm)
  else decodeNone .transfer imm

/-- The meaning of a 24-bit command word (R64 to R67). -/
def decodeCommand (w : CommandWord) : Decoded :=
  decodeFields (opField w) (rsvField w) (immField w)

/-- The meaning of a 9-bit micro-op word: `SEL` = bit 8, `V` = bits 7:0 (R68). -/
def decodeMicro (m : MicroWord) : Instr :=
  if m.getLsbD 8 then .wrCtrl (m.extractLsb' 0 8) else .wrData (m.extractLsb' 0 8)

/-- Decoding of a word in either format (R69). -/
def decode : InstrWord → Decoded
  | .command w => decodeCommand w
  | .microop m => .instr (decodeMicro m)

/-- The command word with the fields `OP` and `IMM16`, `RSV` being 0 (R64). -/
def commandWord (op : BitVec 4) (imm : Addr) : CommandWord := op ++ (0 : BitVec 4) ++ imm

/-- The word of an instruction (R65, R66, R68). -/
def encode : Instr → InstrWord
  | .enable => .command (commandWord 1 0)
  | .disable => .command (commandWord 2 0)
  | .latchLow b => .command (commandWord 3 (b.setWidth 16))
  | .latchHigh b => .command (commandWord 4 (b.setWidth 16))
  | .strobe b => .command (commandWord 5 (b.setWidth 16))
  | .cycle a => .command (commandWord 6 a)
  | .transfer => .command (commandWord 7 0)
  | .wrData v => .microop ((0 : BitVec 1) ++ v)
  | .wrCtrl v => .microop ((1 : BitVec 1) ++ v)

/-- The instruction read from a word numbered as spec/opcode_table.json numbers it. The table's two formats have 24 and
9 bits (9 in whole bytes: 16), so the number of bits says which one it is; a word with a bit above its format is refused. -/
def decodeTableWord (nbits w : Nat) : Option Instr :=
  if nbits ≤ 16 then
    if w < 2 ^ 9 then some (decodeMicro (BitVec.ofNat 9 w)) else none
  else if w < 2 ^ 24 then
    match decodeCommand (BitVec.ofNat 24 w) with
    | .instr i => some i
    | .illegal _ => none
  else none

end Sys2Proof
end

