-- ==== Sys2Proof/Machine/Operands.lean ====
section
/-! DEFINITION. The operand forms: how an address splits into the two latched bytes (R51, R66), how it is presented
(R25), and which buffer byte belongs to it (R42). -/

namespace Sys2Proof.Machine

/-- `a[7:0]` (R51, R66). -/
def lowByte (a : Addr) : Byte := a.extractLsb' 0 8

/-- `a[15:8]` (R51, R66). -/
def highByte (a : Addr) : Byte := a.extractLsb' 8 8

/-- `{h, l}`: the address two latched bytes present (R25). -/
def joinAddr (h l : Byte) : Addr := h ++ l

/-- The address of a cursor value (R129: every cursor value used as an address is below 65536). -/
def cursorAddr (c : Nat) : Addr := BitVec.ofNat 16 c

/-- `a mod N`: the buffer index of a target address (R42). -/
def bufIndex (a : Addr) (n : Nat) : Nat := a.toNat % n

/-- `a mod 2^k`: the cell of a presented address on a target with `k` address lines (R49). -/
def devIndex (a : Addr) (k : Nat) : Nat := a.toNat % 2 ^ k

/-- A cycle at this address starts with a progress event (R120 step 1, R125). -/
def progressDue (a : Nat) : Bool := a % Config.progressPeriod == 0

/-- The progress event's value, `a >> 10`: the whole kilobytes written before this cycle (R125). -/
def progressCount (a : Nat) : Nat := a / Config.progressPeriod

/-- A cycle at this address latches the high byte (R103, R120 step 2). -/
def relatchDue (a : Addr) : Bool := lowByte a == 0

end Sys2Proof.Machine
end

