-- ==== Sys2Proof/Machine/State.lean ====
section
/-! DEFINITION. The state of the machine as plain data (R20 to R39), the reasons a step can stop, and the state after
reset (R36, R160). `⊥` and `Unknown` are values the spec gives the registers themselves (R16, R24, R36): `none` is `⊥`. -/

namespace Sys2Proof.Machine

/-- An external address latch (R24). -/
inductive Latch where
  /-- No known value. -/
  | unknown
  /-- The latch line is low; what the latch presents is unspecified. -/
  | opened
  /-- Closed, presenting byte `b`. -/
  | held (b : Byte)
deriving DecidableEq, Repr

/-- The session state (R26). -/
inductive Phase where
  /-- Outside a session. -/
  | idle
  /-- Inside a session. -/
  | enabled
deriving DecidableEq, Repr

/-- A micro-event: one port write or one trace-only event (R28, R83). -/
inductive MicroEvent where
  /-- `WR_DATA v` (R80). -/
  | wrData (v : Byte)
  /-- `WR_CTRL v` (R81). -/
  | wrCtrl (v : Byte)
  /-- `PROGRESS(k)` (R125). -/
  | progress (k : Nat)
  /-- `COMPLETE` (R122). -/
  | complete
deriving DecidableEq, Repr

/-- The micro-program states `S0` to `S12` of TRANSFER (R124). -/
inductive Upc where
  | s0 | s1 | s2 | s3 | s4 | s5 | s6 | s7 | s8 | s9 | s10 | s11 | s12
deriving DecidableEq, Repr

/-- The events of the trace (R31). -/
inductive Event where
  /-- `WD(v)`: a data-register write. -/
  | wd (v : Byte)
  /-- `WC(v)`: a control-register write. -/
  | wc (v : Byte)
  /-- `CAP_LO(x)`: the low latch closes on a byte; `none` is `?`. -/
  | capLo (x : Option Byte)
  /-- `CAP_HI(x)`: the high latch closes on a byte; `none` is `?`. -/
  | capHi (x : Option Byte)
  /-- `DEVW({hi, lo}, d)`: a target write; `none` is `?`, byte by byte, since the trace shows the known part (R48). -/
  | devw (hi lo d : Option Byte)
  /-- `PROGRESS(k)`: `k` whole kilobytes written. -/
  | progress (k : Nat)
  /-- `COMPLETE`: the end of a TRANSFER. -/
  | complete
deriving DecidableEq, Repr

/-- The fault reasons, exactly those of R141. The block records one and stops for good (R140); from then on `step`
answers it as `Host.Outcome.fault`. All of them are safe: a faulted state is never a good end (R86, D11). -/
inductive Fault where
  /-- The word decodes to no command (R67). Raised by `advance` when it takes the word. Safe. -/
  | illegalCommand
  /-- The port is not open. Raised by the admission of every command. Safe. -/
  | portNotOpen
  /-- The phase is IDLE. Raised by the admission of DISABLE, LATCH_LOW, LATCH_HIGH, STROBE and CYCLE. Safe. -/
  | notEnabled
  /-- The phase is ENABLED. Raised by the admission of ENABLE and TRANSFER. Safe. -/
  | alreadyEnabled
  /-- A latch the command would use is not held; both latch states are recorded. Raised by the admission of STROBE and of
  CYCLE with a low byte other than 0. Safe. -/
  | unlatchedAddress (hi lo : Latch)
  /-- A port write failed, only with `PORT_WRITE_FALLIBLE`; the micro-op is recorded. Raised by any micro-op (R146). Safe. -/
  | portWriteFailed (op : MicroEvent)
deriving DecidableEq, Repr

/-- Why the machine has no step although no fault is recorded. None of them refuses an instruction. -/
inductive Refusal where
  /-- An instruction without a meaning; no arm of `exec` uses it. Safe. -/
  | notModelled (mnemonic : String)
  /-- The run was aborted (R149): the block has no further step (R83). Answered by `step`. Safe. -/
  | aborted
  /-- No command is in execution and the host has no further move: the block has no step (R83, case 4). Answered by `step`. Safe. -/
  | noCommand
  /-- The host process has exited (R143, R164). Answered by `step`. Safe. -/
  | hostExited
  /-- The micro-program stands in S1 to S10 with the cursor `⊥`, which no run reaches and for which no rule speaks (R29,
  R37; log entry 20). Answered by `step`. Safe. -/
  | cursorUndefined
deriving DecidableEq, Repr

/-- The record of a raised fault: `(reason, w, pos)` with `pos` = `pending` and `upc` (R140). -/
structure FaultRecord where
  /-- The reason, with what R141 records beside `w` and `pos`. -/
  reason : Fault
  /-- The command word being admitted or executed. -/
  word : Option CommandWord
  /-- The micro-events the command still had to perform. -/
  pending : List MicroEvent
  /-- The micro-program state. -/
  upc : Option Upc
deriving DecidableEq, Repr

/-- The host process's exit status (R143). -/
inductive ExitStatus where
  /-- Status 0. -/
  | success
  /-- Status 1. -/
  | failure
deriving DecidableEq, Repr

/-- The moves of the host process, taken one at a time when no command is in execution (R83, R163, R164, R171). -/
inductive HostMove where
  /-- The next word of the command stream. -/
  | command (w : CommandWord)
  /-- `PORT_OPEN`; `ok` says whether it succeeds (R163). -/
  | portOpen (ok : Bool)
  /-- `PORT_CLOSE` (R171). -/
  | portClose
  /-- The process exits (R164). -/
  | exit (status : ExitStatus)
deriving DecidableEq, Repr

/-- What may happen at one step boundary (R85, R145, R148). -/
inductive Choice where
  /-- The machine takes its step. -/
  | proceed
  /-- If the step performs a port write and writes can fail, the write fails (R146). -/
  | writeFails
  /-- If the step performs a port write, the port does not accept it yet (R148). -/
  | stall
  /-- From here on the port accepts no write, ever (R148). -/
  | hang
  /-- The host aborts (R149). -/
  | abort
deriving DecidableEq, Repr

/-- The state of the block, its environment, its inputs and its host (R20, R38). -/
structure State where
  /-- The open parameters; no step changes them (R38). -/
  params : Params
  /-- `DR`, the port data register (R21). -/
  dr : Option Byte
  /-- `CR`, the port control register (R22); `L` is its view `State.lines` (R23). -/
  cr : Option Byte
  /-- `LAT_LO`, the low address latch (R24). -/
  latLo : Latch
  /-- `LAT_HI`, the high address latch (R24). -/
  latHi : Latch
  /-- `DEV`, the target memory (R33): cells in rising order; an unlisted cell holds a draw. -/
  dev : List Host.Cell
  /-- `port_open` (R27). -/
  portOpen : Bool
  /-- `phase` (R26). -/
  phase : Phase
  /-- `pending`: the micro-events the command in execution still has to perform (R28). -/
  pending : List MicroEvent
  /-- `upc`: the micro-program state of TRANSFER (R28). -/
  upc : Option Upc
  /-- `cursor`: the Transfer Cursor (R29). -/
  cursor : Option Nat
  /-- `BUF`, the source buffer (R30): cells in rising order; an unlisted index holds `FILL`. -/
  buf : List Host.Cell
  /-- `N`, the buffer's size (R30). -/
  bufSize : Nat
  /-- `trace`, oldest event first (R31). -/
  trace : List Event
  /-- `fault` (R32, R140). -/
  fault : Option FaultRecord
  /-- `aborted` (R32, R149). -/
  aborted : Bool
  /-- The word of the command last taken: the `w` of a fault record (R140). -/
  word : Option CommandWord
  /-- The host's remaining moves, the command stream among them (R38, R83). -/
  hostMoves : List HostMove
  /-- The host's exit status, once it has exited (R143). -/
  hostExit : Option ExitStatus
  /-- What happens at the coming step boundaries (R145); an empty list is `proceed`. -/
  choices : List Choice
  /-- The model's counter of the free values drawn. -/
  draws : Nat
  /-- The model's index of the whole-memory draw the unlisted cells of `DEV` come from. -/
  devEpoch : Nat
deriving DecidableEq, Repr

/-- The machine right after the host's successful port open (R36, R160), with the reference parameters, an empty command
stream and the buffer of an empty file of the default size (log entries 1, 11, 12). -/
def State.reset : State where
  params := Params.reference
  dr := none
  cr := none
  latLo := .unknown
  latHi := .unknown
  dev := []
  portOpen := true
  phase := .idle
  pending := []
  upc := none
  cursor := none
  buf := []
  bufSize := Config.maxSize
  trace := []
  fault := none
  aborted := false
  word := none
  hostMoves := []
  hostExit := none
  choices := []
  draws := 1
  devEpoch := 0

end Sys2Proof.Machine
end

