-- ==== Sys2Proof/Machine/Ops.lean ====
section
/-! DEFINITION. The operations the meanings are made of: byte memories, the port registers with the environment's reactions
(R43 to R50), raising a fault (R140), a failed write (R146), an abort (R149), the host's port moves (R163, R171), admission
(R147) and the performing of micro-events (R83). -/

namespace Sys2Proof.Machine

/-! ### Byte memories -/

/-- A byte memory: (address, byte) pairs at strictly rising addresses. -/
abbrev Memory := List Host.Cell

/-- The canonical form: addresses strictly rising. An unlisted address of `DEV` has no known value, so no entry can equal
what it reads as; `State.bufWf` adds the rule for `BUF`, whose unlisted indexes read as `FILL`. -/
abbrev Memory.wf (m : Memory) : Prop := m.Pairwise fun c d => c.1 < d.1

/-- The byte at an address, `none` where nothing is listed. -/
def Memory.read : Memory → Nat → Option Byte
  | [], _ => none
  | (a, v) :: rest, x => if x = a then some v else Memory.read rest x

/-- Writing one byte; the canonical form is kept. -/
def Memory.write : Memory → Nat → Byte → Memory
  | [], x, v => [(x, v)]
  | (a, w) :: rest, x, v =>
    if x < a then (x, v) :: (a, w) :: rest
    else if x = a then (x, v) :: rest
    else (a, w) :: Memory.write rest x v

/-- The memory whose listed bytes are those of `bytes` from address `a` on that differ from `fill`. -/
def Memory.ofBytes (fill : Byte) : (a : Nat) → (bytes : List Byte) → Memory
  | _, [] => []
  | a, v :: rest =>
    if v = fill then Memory.ofBytes fill (a + 1) rest else (a, v) :: Memory.ofBytes fill (a + 1) rest

/-- `MemRead_BUF(i, 1)` (R41): an unlisted index holds `FILL` (R167). -/
def State.readBuf (s : State) (i : Nat) : Byte := (Memory.read s.buf i).getD Config.fill

/-- The buffer byte of a target address, `BUF[a mod N]` (R42). -/
def State.bufByte (s : State) (a : Addr) : Byte := s.readBuf (bufIndex a s.bufSize)

/-- What the target's cell holds, as far as it is known: the one definition of what an unlisted cell reads as, no known
value (R33, R36: a draw). -/
def State.devKnown (s : State) (cell : Nat) : Option Byte := Memory.read s.dev cell

/-- The byte a cell of the target holds; an unlisted cell holds the free value of its whole-memory draw (R36, R149). -/
def State.devCell (s : State) (cell : Nat) : Byte := (s.devKnown cell).getD (Config.devPrior s.devEpoch cell)

/-- The listed cells of `DEV` are cells the target has (R33, R49), in canonical form. -/
abbrev State.devWf (s : State) : Prop := Memory.wf s.dev ∧ ∀ c ∈ s.dev, c.1 < 2 ^ s.params.devAddrBits

/-- The buffer is in canonical form: every listed index is below `N` and holds a byte other than `FILL` (R30, R167). -/
abbrev State.bufWf (s : State) : Prop := Memory.wf s.buf ∧ ∀ c ∈ s.buf, c.1 < s.bufSize ∧ c.2 ≠ Config.fill

/-- `N` is a power of two from 1 to 65536 (R11). -/
def bufSizeOk (n : Nat) : Bool := (List.range 17).any fun j => n == 2 ^ j

/-! ### The control lines and the trace -/

/-- `L`, the control line vector: `PHYS_MAP⁻¹(CR)`, `none` (`⊥`) when `CR` is `⊥` or outside the image (R23). -/
def State.lines (s : State) : Option Lines := s.cr.bind (physInv s.params)

/-- `emit E` (R16, R31). -/
def State.emit (e : Event) (s : State) : State := { s with trace := s.trace ++ [e] }

/-- The address byte a latch presents to the device while its line is steady at 1 (R25, R47). -/
def presentedByte (x : Line) (o n : Lines) : Latch → Option Byte
  | .held b => if x.steadyHigh o n then some b else none
  | _ => none

/-! ### The device's reaction to a control write -/

/-- The write effect `MemWrite_DEV` on one cell (R50). -/
def writeEffect (d : DeviceWrite) (old new : Byte) : Byte :=
  match d with
  | .overwrite => new
  | .target => Config.deviceWrite old new

/-- The cell `MemWrite_DEV(a, 1, v)` writes: `a mod 2^k` (R49). -/
def State.devAddr (s : State) (a : Addr) : Nat := devIndex a s.params.devAddrBits

/-- `DEV` after `MemWrite_DEV(a, 1, v)`: no cell other than the one of `a` changes (R49, R50). -/
def State.devWritten (s : State) (a : Addr) (v : Byte) : Memory :=
  Memory.write s.dev (s.devAddr a) (writeEffect s.params.deviceWrite (s.devCell (s.devAddr a)) v)

/-- What a control write makes the device do. -/
inductive DeviceReaction where
  /-- Nothing. -/
  | quiet
  /-- R47: the write of a known byte at a known address. -/
  | write (h l d : Byte)
  /-- R48, first case: a write that happens, of which only the given parts are known. -/
  | unknown (h l d : Option Byte)
  /-- R48, second and third case: a write that may have happened, of which nothing is known. -/
  | spurious
deriving DecidableEq, Repr

/-- Which reaction R47 and R48 give, from the old and the new line vector and the latch states before the write. -/
def deviceReaction (o : Option Lines) (n : Lines) (s : State) : DeviceReaction :=
  match o with
  | none => if !Line.dataStrobe.level n && Line.program.level n then .spurious else .quiet
  | some o =>
    if Line.dataStrobe.falling o n then
      if Line.program.level o && Line.program.level n then
        match presentedByte .addrHighInv o n s.latHi, presentedByte .addrLowInv o n s.latLo, s.dr with
        | some h, some l, some d => .write h l d
        | h, l, d => .unknown h l d
      else if Line.program.level o || Line.program.level n then .spurious
      else .quiet
    else .quiet

/-- A write that may have happened at a drawn address with a drawn byte (R48): it happened iff `Config.drawTaken` says so. -/
def State.spuriousWrite (s : State) : State :=
  { s with
    dev := if Config.drawTaken s.draws then s.devWritten (Config.drawAddr s.draws) (Config.drawByte s.draws) else s.dev
    trace := s.trace ++ (if Config.drawTaken s.draws then [.devw none none none] else [])
    draws := s.draws + 1 }

/-- The device's reaction carried out (R47, R48). -/
def State.deviceReact (r : DeviceReaction) (s : State) : State :=
  match r with
  | .quiet => s
  | .write h l d =>
    { s with dev := s.devWritten (joinAddr h l) d, trace := s.trace ++ [.devw (some h) (some l) (some d)] }
  | .unknown h l d =>
    { s with
      dev := s.devWritten (Config.drawAddr s.draws) (Config.drawByte s.draws)
      trace := s.trace ++ [.devw h l d]
      draws := s.draws + 1 }
  | .spurious => s.spuriousWrite

/-! ### The latches' reactions -/

/-- What R44 and R45 make of a latch. -/
inductive LatchReaction where
  /-- The latch is unchanged. -/
  | keep
  /-- The latch opens. -/
  | opens
  /-- The latch closes on the byte in `DR`, if that is known. -/
  | captures (d : Option Byte)
deriving DecidableEq, Repr

/-- The reaction of the latch on line `x` (R44, R45). -/
def latchReaction (x : Line) (o : Option Lines) (n : Lines) (dr : Option Byte) : LatchReaction :=
  match o with
  | none => if x.level n then .captures none else .opens
  | some o => if x.falling o n then .opens else if x.rising o n then .captures dr else .keep

/-- The latch after its reaction (R44, R45). -/
def LatchReaction.latch : LatchReaction → Latch → Latch
  | .keep, old => old
  | .opens, _ => .opened
  | .captures none, _ => .unknown
  | .captures (some b), _ => .held b

/-- The capture event of a reaction (R44, R45). -/
def LatchReaction.events (cap : Option Byte → Event) : LatchReaction → List Event
  | .captures d => [cap d]
  | _ => []

/-- The low latch's reaction (R44). -/
def State.lowReact (o : Option Lines) (n : Lines) (s : State) : State :=
  { s with
    latLo := (latchReaction .addrLowInv o n s.dr).latch s.latLo
    trace := s.trace ++ (latchReaction .addrLowInv o n s.dr).events .capLo }

/-- The high latch's reaction (R45). -/
def State.highReact (o : Option Lines) (n : Lines) (s : State) : State :=
  { s with
    latHi := (latchReaction .addrHighInv o n s.dr).latch s.latHi
    trace := s.trace ++ (latchReaction .addrHighInv o n s.dr).events .capHi }

/-- The environment's reactions to a control write, in the order R81 gives: the device with the latch states before the
write, then the low latch, then the high latch. -/
def State.react (o : Option Lines) (n : Lines) (s : State) : State :=
  ((s.deviceReact (deviceReaction o n s)).lowReact o n).highReact o n

/-! ### The port registers -/

/-- `WR_DATA v` that completes (R80). -/
def State.writeData (v : Byte) (s : State) : State := { s with dr := some v, trace := s.trace ++ [.wd v] }

/-- `CR <- v` and `WC(v)`, before any reaction (R81). -/
def State.storeCtrl (v : Byte) (s : State) : State := { s with cr := some v, trace := s.trace ++ [.wc v] }

/-- `WR_CTRL v` that completes (R81). A value outside the image of `PHYS_MAP`, which no command writes, causes no reaction
if `CR` holds it already (R53), and else the lines are a free value (log entry 8). -/
def State.writeCtrl (v : Byte) (s : State) : State :=
  match physInv s.params v with
  | some n => (s.storeCtrl v).react s.lines n
  | none =>
    if s.cr = some v then s.storeCtrl v
    else { s.storeCtrl v with draws := s.draws + 1 }.react s.lines (Config.drawLines s.draws)

/-- `raise Fault(reason)`: the record `(reason, w, pos)` is kept and nothing else changes (R140). -/
def State.raise (f : Fault) (s : State) : State :=
  { s with fault := some { reason := f, word := s.word, pending := s.pending, upc := s.upc } }

/-- The port write of this step fails, if the step performs one: the write-failure choice with fallible writes (R14, R146). -/
def State.writeFails (s : State) : Bool := s.params.portWriteFallible && s.choices.head? == some .writeFails

/-- What a failed port write leaves before the fault (R146): its register is `⊥` and no `WD` or `WC` is emitted; for a
control write both latches are unknown and one unknown device write may occur. -/
def State.afterFailedWrite (e : MicroEvent) (s : State) : State :=
  match e with
  | .wrData _ => { s with dr := none }
  | .wrCtrl _ => { s with cr := none, latLo := .unknown, latHi := .unknown }.spuriousWrite
  | _ => s

/-- A port write that fails: R146, with the fault `PortWriteFailed` raised at the micro-op that failed. -/
def State.failWrite (e : MicroEvent) (s : State) : State := (s.afterFailedWrite e).raise (.portWriteFailed e)

/-! ### Micro-events -/

/-- The micro-event is a port write; the others are trace-only (R28). -/
def MicroEvent.isPortWrite : MicroEvent → Bool
  | .wrData _ => true
  | .wrCtrl _ => true
  | .progress _ => false
  | .complete => false

/-- The effect of a micro-event that completes (R80, R81, R125). -/
def State.apply (e : MicroEvent) (s : State) : State :=
  match e with
  | .wrData v => s.writeData v
  | .wrCtrl v => s.writeCtrl v
  | .progress k => s.emit (.progress k)
  | .complete => s.emit .complete

/-- Performing a micro-event: it fails, or it takes its effect and then `done`, the bookkeeping of the same step (R83). -/
def State.perform (e : MicroEvent) (done : State → State) (s : State) : State :=
  if e.isPortWrite && s.writeFails then s.failWrite e else done (s.apply e)

/-- Performing the head of `pending` and removing it (R83, case 2). -/
def State.runPending (s : State) : State :=
  match s.pending with
  | [] => s
  | e :: rest => s.perform e fun t => { t with pending := rest }

/-! ### Taking a command -/

/-- The word of a command (R65); a micro-op has none (R68). -/
def commandWordOf (i : Instr) : Option CommandWord :=
  match encode i with
  | .command w => some w
  | .microop _ => none

/-- The latch gives an address byte (R25). -/
def Latch.isHeld : Latch → Bool
  | .held _ => true
  | _ => false

/-- The session check of a command: the phase it must find (R90, R91, R100, R110, R120, R122). -/
def phaseFault (want : Phase) (s : State) : Option Fault :=
  if s.phase = want then none
  else match want with
    | .enabled => some .notEnabled
    | .idle => some .alreadyEnabled

/-- The latch check of a command: `UnlatchedAddress` unless every latch it would use is held (R110, R120). -/
def latchFault (i : Instr) (s : State) : Option Fault :=
  let ready := match i with
    | .strobe _ => s.latHi.isHeld && s.latLo.isHeld
    | .cycle a => relatchDue a || s.latHi.isHeld
    | _ => true
  if ready then none else some (.unlatchedAddress s.latHi s.latLo)

/-- The phase a command must find. -/
def wantedPhase : Instr → Phase
  | .enable => .idle
  | .transfer => .idle
  | _ => .enabled

/-- The first failing admission check of a command, in the order of R147. -/
def admission (i : Instr) (s : State) : Option Fault :=
  if s.portOpen then (phaseFault (wantedPhase i) s).or (latchFault i s) else some .portNotOpen

/-- Taking a command (R83, case 3): check its admission, then raise the fault or run its first step. -/
def State.takeCommand (i : Instr) (run : State → State) (s : State) : State :=
  match admission i s with
  | some f => { s with word := commandWordOf i }.raise f
  | none => run { s with word := commandWordOf i }

/-- Taking a command whose expansion is the list `events` (R72, R84): set `pending` and perform the first micro-event in
the same step. -/
def State.start (i : Instr) (events : List MicroEvent) (s : State) : State :=
  s.takeCommand i fun t => { t with pending := events }.runPending

/-- A word that decodes to no command: `IllegalCommand`, whatever the rest of the state (R67, R147). -/
def State.takeIllegal (w : CommandWord) (s : State) : State := { s with word := some w }.raise .illegalCommand

/-! ### The expansions -/

/-- The micro-ops of LATCH_LOW (R100). -/
def latchLowEvents (p : Params) (b : Byte) : List MicroEvent :=
  [.wrData b, .wrCtrl (ctrlByte p .lowOpen), .wrCtrl (ctrlByte p .idle)]

/-- The micro-ops of LATCH_HIGH (R101, C1). -/
def latchHighEvents (p : Params) (b : Byte) : List MicroEvent :=
  [.wrData b, .wrCtrl (ctrlByte p .highOpen), .wrCtrl (ctrlByte p .idle)]

/-- The micro-ops of STROBE (R110). -/
def strobeEvents (p : Params) (b : Byte) : List MicroEvent :=
  [.wrData b, .wrCtrl (ctrlByte p .strobe), .wrCtrl (ctrlByte p .idle)]

/-- The micro-events of CYCLE for the address `a` and the byte `d` (R120). -/
def cycleEvents (p : Params) (a : Addr) (d : Byte) : List MicroEvent :=
  (if progressDue a.toNat then [.progress (progressCount a.toNat)] else []) ++
  (if relatchDue a then latchHighEvents p (highByte a) else []) ++
  latchLowEvents p (lowByte a) ++ strobeEvents p d

/-- The expansion of a command into micro-events (R72). TRANSFER has none: it runs the micro-program (R28, R124). -/
def expansion (i : Instr) (s : State) : List MicroEvent :=
  match i with
  | .enable => [.wrCtrl (ctrlByte s.params .idle)]
  | .disable => [.wrCtrl (ctrlByte s.params .off)]
  | .latchLow b => latchLowEvents s.params b
  | .latchHigh b => latchHighEvents s.params b
  | .strobe b => strobeEvents s.params b
  | .cycle a => cycleEvents s.params a (s.bufByte a)
  | .transfer => []
  | .wrData v => [.wrData v]
  | .wrCtrl v => [.wrCtrl v]

/-! ### The micro-program of TRANSFER -/

/-- R123: the first state of the cycle for a cursor value. -/
def entry (c : Nat) : Upc :=
  if c = Config.cycles then .s11
  else if progressDue c then .s1
  else if relatchDue (cursorAddr c) then .s2
  else .s5

/-- R124, column `event`; `c` is the cursor, which S0, S11 and S12 do not read. -/
def Upc.event (u : Upc) (c : Nat) (s : State) : MicroEvent :=
  match u with
  | .s0 => .wrCtrl (ctrlByte s.params .idle)
  | .s1 => .progress (progressCount c)
  | .s2 => .wrData (highByte (cursorAddr c))
  | .s3 => .wrCtrl (ctrlByte s.params .highOpen)
  | .s4 => .wrCtrl (ctrlByte s.params .idle)
  | .s5 => .wrData (lowByte (cursorAddr c))
  | .s6 => .wrCtrl (ctrlByte s.params .lowOpen)
  | .s7 => .wrCtrl (ctrlByte s.params .idle)
  | .s8 => .wrData (s.bufByte (cursorAddr c))
  | .s9 => .wrCtrl (ctrlByte s.params .strobe)
  | .s10 => .wrCtrl (ctrlByte s.params .idle)
  | .s11 => .wrCtrl (ctrlByte s.params .off)
  | .s12 => .complete

/-- R124, columns `other writes` and `next`. -/
def Upc.finish (u : Upc) (c : Nat) (t : State) : State :=
  match u with
  | .s0 => { t with phase := .enabled, cursor := some 0, upc := some (entry 0) }
  | .s1 => { t with upc := some (if relatchDue (cursorAddr c) then .s2 else .s5) }
  | .s2 => { t with upc := some .s3 }
  | .s3 => { t with upc := some .s4 }
  | .s4 => { t with upc := some .s5 }
  | .s5 => { t with upc := some .s6 }
  | .s6 => { t with upc := some .s7 }
  | .s7 => { t with upc := some .s8 }
  | .s8 => { t with upc := some .s9 }
  | .s9 => { t with upc := some .s10 }
  | .s10 => { t with cursor := some (c + 1), upc := some (entry (c + 1)) }
  | .s11 => { t with phase := .idle, cursor := none, upc := some .s12 }
  | .s12 => { t with upc := none }

/-- The states whose row of R124 speaks of the cursor's value: S1 to S10. -/
def Upc.readsCursor : Upc → Bool
  | .s0 => false
  | .s11 => false
  | .s12 => false
  | _ => true

/-- One micro-event of the micro-program with the cursor at `c` (R83 case 2, R124). -/
def State.microStep (u : Upc) (c : Nat) (s : State) : State := s.perform (u.event c s) (u.finish c)

/-- The next micro-event of TRANSFER. In S1 to S10 with the cursor `⊥`, which no run reaches, no rule speaks (R37). -/
def State.runMicroprogram (u : Upc) (s : State) : Host.Outcome State Fault Refusal :=
  match s.cursor with
  | some c => .next (s.microStep u c)
  | none => if u.readsCursor then .refused .cursorUndefined else .next (s.microStep u 0)

/-! ### The host's moves and the abort -/

/-- R149: process termination. -/
def State.abort (s : State) : State :=
  { s with
    aborted := true, dr := none, cr := none, latLo := .unknown, latHi := .unknown
    dev := [], devEpoch := s.draws, draws := s.draws + 1 }

/-- R163 and R36: the port opens; the host's inputs (parameters, buffer, moves) stay. -/
def State.openPort (s : State) : State :=
  { s with
    dr := none, cr := none, latLo := .unknown, latHi := .unknown
    dev := [], devEpoch := s.draws, draws := s.draws + 1
    portOpen := true, phase := .idle, pending := [], upc := none, cursor := none, trace := []
    fault := none, aborted := false, word := none }

/-- R171: the port closes; the latches and `DEV` keep their state. -/
def State.closePort (s : State) : State := { s with portOpen := false, dr := none, cr := none }

/-- R143, R164: the host process exits. -/
def State.exitHost (status : ExitStatus) (s : State) : State := { s with hostExit := some status }

/-! ### Step boundaries -/

/-- One step boundary has passed: its choice is used up, but for a hang, which stays for good (R148). -/
def State.consumeChoice (s : State) : State :=
  if s.choices.head? = some .hang then s else { s with choices := s.choices.tail }

/-- At this boundary the port does not accept a write (R148). -/
def State.portRefuses (s : State) : Bool :=
  s.choices.head? == some .stall || s.choices.head? == some .hang

/-- The first micro-event of a command is a port write. -/
def firstIsPortWrite (i : Instr) (s : State) : Bool :=
  match i, expansion i s with
  | .transfer, _ => true
  | _, e :: _ => e.isPortWrite
  | _, [] => false

/-- The next step of the block would perform a port write (R83): then it is taken only when the port accepts it (R148). -/
def State.nextWritesPort (s : State) : Bool :=
  match s.pending, s.upc, s.hostMoves with
  | e :: _, _, _ => e.isPortWrite
  | [], some u, _ => (u.event 0 s).isPortWrite
  | [], none, .command w :: _ =>
    match decodeCommand w with
    | .instr i => (admission i s).isNone && firstIsPortWrite i s
    | .illegal _ => false
  | [], none, _ => false

/-- Applying a state change to a next state. -/
def onNext (f : State → State) : Host.Outcome State Fault Refusal → Host.Outcome State Fault Refusal
  | .next s => .next (f s)
  | .fault r => .fault r
  | .refused r => .refused r

end Sys2Proof.Machine
end

