-- ==== Sys2Proof/Machine/AddressLatch.lean ====
section
/-! DEFINITION. Address latching (R100, R101). Executing a command admits it and performs its first micro-op (R83); the other two
follow, one a step. -/

namespace Sys2Proof.Machine

/-- `LATCH_LOW b` (R100). -/
def execLatchLow (b : Byte) (s : State) : Host.Outcome State Fault Refusal :=
  .next (s.start (.latchLow b) (expansion (.latchLow b) s))

/-- `LATCH_HIGH b` (R101). -/
def execLatchHigh (b : Byte) (s : State) : Host.Outcome State Fault Refusal :=
  .next (s.start (.latchHigh b) (expansion (.latchHigh b) s))

end Sys2Proof.Machine
end

