-- ==== Sys2Proof/Machine/DataStrobe.lean ====
section
/-! DEFINITION. The data strobe (R110): admission with both latches held, then three micro-ops, one a step. -/

namespace Sys2Proof.Machine

/-- `STROBE b` (R110). -/
def execStrobe (b : Byte) (s : State) : Host.Outcome State Fault Refusal :=
  .next (s.start (.strobe b) (expansion (.strobe b) s))

end Sys2Proof.Machine
end

