-- ==== Sys2Proof/Machine/PortPrimitives.lean ====
section
/-! DEFINITION. The meanings of the two micro-ops (R80, R81). They carry no admission check of their own: the command they
belong to was checked when it was admitted. -/

namespace Sys2Proof.Machine

/-- `WR_DATA v` (R80; R146 if the write fails). -/
def execWrData (v : Byte) (s : State) : Host.Outcome State Fault Refusal :=
  .next (s.perform (.wrData v) id)

/-- `WR_CTRL v` (R81; R146 if the write fails). -/
def execWrCtrl (v : Byte) (s : State) : Host.Outcome State Fault Refusal :=
  .next (s.perform (.wrCtrl v) id)

end Sys2Proof.Machine
end

