-- ==== Sys2Proof/Machine/Session.lean ====
section
/-! DEFINITION. The session bracket (R90, R91): each command is one control write, and the phase changes in the same step. -/

namespace Sys2Proof.Machine

/-- `ENABLE` (R90). -/
def execEnable (s : State) : Host.Outcome State Fault Refusal :=
  .next (s.takeCommand .enable fun t =>
    { t with pending := expansion .enable s }.perform (.wrCtrl (ctrlByte s.params .idle))
      fun u => { u with pending := [], phase := .enabled })

/-- `DISABLE` (R91). -/
def execDisable (s : State) : Host.Outcome State Fault Refusal :=
  .next (s.takeCommand .disable fun t =>
    { t with pending := expansion .disable s }.perform (.wrCtrl (ctrlByte s.params .off))
      fun u => { u with pending := [], phase := .idle })

end Sys2Proof.Machine
end

