-- ==== Sys2Proof/Machine/TransferDriver.lean ====
section
/-! DEFINITION. The transfer driver (R120, R122): one cycle, and the whole session as a micro-program. -/

namespace Sys2Proof.Machine

/-- `CYCLE a` (R120). The buffer byte is fixed at admission (R84). A stale but held high latch is no fault (R121). -/
def execCycle (a : Addr) (s : State) : Host.Outcome State Fault Refusal :=
  .next (s.start (.cycle a) (expansion (.cycle a) s))

/-- `TRANSFER` (R122): `upc <- S0`, and S0's event in the same step (R83, R124). -/
def execTransfer (s : State) : Host.Outcome State Fault Refusal :=
  .next (s.takeCommand .transfer fun t => { t with upc := some .s0 }.microStep .s0 0)

end Sys2Proof.Machine
end

