-- ==== Sys2Proof/Machine/Dispatch.lean ====
section
/-! DEFINITION. What each instruction does: one arm per row of spec/opcode_table.json. -/

namespace Sys2Proof.Machine

def exec (i : Instr) (s : State) : Host.Outcome State Fault Refusal :=
  match i with
  | .enable => Sys2Proof.Machine.execEnable s
  | .disable => Sys2Proof.Machine.execDisable s
  | .latchLow b => Sys2Proof.Machine.execLatchLow b s
  | .latchHigh b => Sys2Proof.Machine.execLatchHigh b s
  | .strobe b => Sys2Proof.Machine.execStrobe b s
  | .cycle a => Sys2Proof.Machine.execCycle a s
  | .transfer => Sys2Proof.Machine.execTransfer s
  | .wrData v => Sys2Proof.Machine.execWrData v s
  | .wrCtrl v => Sys2Proof.Machine.execWrCtrl v s

end Sys2Proof.Machine
end

