-- ==== Sys2Proof/Machine/Sequencer.lean ====
section
/-! DEFINITION. The step relation (R83) with the other moves a step boundary admits (R85, R145, R148), and where the next
instruction stands. -/

namespace Sys2Proof.Machine

/-- A machine that is stopped for good and its answer (R83 case 1, R140, R149; R164 for the host's exit). -/
def stopped (s : State) : Option (Host.Outcome State Fault Refusal) :=
  match s.fault with
  | some r => some (.fault r.reason)
  | none =>
    if s.aborted then some (.refused .aborted)
    else if s.hostExit.isSome then some (.refused .hostExited)
    else none

/-- A move of the host, taken from the front of its list (R83 case 3, R163, R164, R171). -/
def hostMove (m : HostMove) (s : State) : Host.Outcome State Fault Refusal :=
  match m with
  | .command w =>
    match decodeCommand w with
    | .instr i => exec i s
    | .illegal _ => .next (s.takeIllegal w)
  | .portOpen true => .next s.openPort
  | .portOpen false => .next (s.exitHost .failure)
  | .portClose => .next s.closePort
  | .exit status => .next (s.exitHost status)

/-- The step that proceeds: the next micro-event of the command in execution, or else the host's next move (R83 cases 2
to 4). -/
def advance (s : State) : Host.Outcome State Fault Refusal :=
  match s.pending, s.upc, s.hostMoves with
  | _ :: _, _, _ => .next s.runPending
  | [], some u, _ => s.runMicroprogram u
  | [], none, m :: rest => hostMove m { s with hostMoves := rest }
  | [], none, [] => .refused .noCommand

/-- One step: nothing if the machine is stopped, else what this boundary's choice gives (R85, R145): an abort, no progress
because the port does not accept the step's write (R148), or the step itself. -/
def stepOnce (s : State) : Host.Outcome State Fault Refusal :=
  match stopped s with
  | some o => o
  | none =>
    if s.choices.head? = some .abort then .next s.consumeChoice.abort
    else if s.portRefuses && s.nextWritesPort then .next s.consumeChoice
    else onNext State.consumeChoice (advance s)

/-- The state in which the very next step runs the instruction of the given word: a command word goes to the front of the
host's stream with no command in execution, a micro-op into `pending`, which is where the block takes them from (R83). -/
def placeWord (s : State) (nbits w : Nat) : State :=
  if nbits ≤ 16 then
    match decodeMicro (BitVec.ofNat 9 w) with
    | .wrCtrl v => { s with pending := [.wrCtrl v], upc := none, cursor := none, choices := [] }
    | .wrData v => { s with pending := [.wrData v], upc := none, cursor := none, choices := [] }
    | _ => s
  else
    { s with
      hostMoves := .command (BitVec.ofNat 24 w) :: s.hostMoves
      pending := [], upc := none, cursor := none, choices := [] }

end Sys2Proof.Machine
end

