-- ==== Sys2Proof/Machine/Boot.lean ====
section
/-! DEFINITION. The host's contract (R163 to R171): the size rule, the buffer, the boot order and the exits before the port
opens. The text of the command line is out of scope (R9); an invocation is its parsed form (R165). -/

namespace Sys2Proof.Machine

/-- The value of a string of decimal digits, continuing from `acc`; `none` at any other character. -/
def decimalFrom : (acc : Nat) → List Char → Option Nat
  | acc, [] => some acc
  | acc, c :: cs =>
    if 48 ≤ c.toNat ∧ c.toNat ≤ 57 then decimalFrom (10 * acc + (c.toNat - 48)) cs else none

/-- The value of a non-empty string of decimal digits (R166). -/
def parseDecimal (cs : List Char) : Option Nat := if cs.isEmpty then none else decimalFrom 0 cs

/-- The effective size of a size value: kilobytes up to the threshold (R166). -/
def effectiveSize (v : Nat) : Nat := if v ≤ Config.kbThreshold then v * 1024 else v

/-- The size rule (R166): the buffer size of an accepted argument, `none` for a rejected one. -/
def sizeRule (arg : List Char) : Option Nat :=
  match parseDecimal arg with
  | some v => if 1 ≤ v ∧ v ≤ Config.maxSize ∧ bufSizeOk (effectiveSize v) then some (effectiveSize v) else none
  | none => none

/-- The buffer built from a file (R167): its first `n` bytes (R168), the rest being `FILL`. -/
def buildBuffer (n : Nat) (file : List Byte) : Memory := Memory.ofBytes Config.fill 0 (file.take n)

/-- What the host finds as its file argument (R143, R164, R165). -/
inductive FileArg where
  /-- No filename is given. -/
  | missing
  /-- The file cannot be opened or read. -/
  | unreadable
  /-- The file's bytes. -/
  | contents (bytes : List Byte)
deriving DecidableEq, Repr

/-- One invocation of the host program, parsed (R165). -/
structure Invocation where
  /-- `--port`, if given. -/
  port : Option (List Char)
  /-- `--size`, if given. -/
  size : Option (List Char)
  /-- `FILENAME`. -/
  file : FileArg
  /-- Whether the port can be opened (R163). -/
  portOpens : Bool
deriving DecidableEq, Repr

/-- The classes of host errors before the port opens (R143). -/
inductive HostError where
  /-- Invalid size or missing filename. -/
  | argument
  /-- Open or read failure. -/
  | file
deriving DecidableEq, Repr

/-- What steps 1 to 3 of the boot order give (R164): the buffer size and the buffer, or an error. -/
inductive Prepared where
  /-- The size and the buffer. -/
  | ready (n : Nat) (buf : Memory)
  /-- The process exits with status 1 before any port activity. -/
  | failed (e : HostError)
deriving DecidableEq, Repr

/-- The size argument's effect: the default without one (R165, R166). -/
def chosenSize (inv : Invocation) : Option Nat :=
  match inv.size with
  | none => some Config.maxSize
  | some arg => sizeRule arg

/-- Steps 1 to 3 of the boot order (R164): the filename, the size, the file. -/
def prepare (inv : Invocation) : Prepared :=
  match inv.file, chosenSize inv with
  | .missing, _ => .failed .argument
  | _, none => .failed .argument
  | .unreadable, some _ => .failed .file
  | .contents bytes, some n => .ready n (buildBuffer n bytes)

/-- The machine before the port opens (R161): nothing is known of the environment and no command is in execution. -/
def State.unopened : State := { State.reset with portOpen := false, draws := 0 }

/-- The word of TRANSFER, the one command the reference host issues (R170). -/
def transferWord : CommandWord := 0x700000

/-- The state in which the host process starts (R164): after an error it has exited with status 1 and the port stays closed;
else it opens the port, issues TRANSFER, closes the port and exits with status 0. -/
def boot (inv : Invocation) : State :=
  match prepare inv with
  | .failed _ => { State.unopened with hostExit := some .failure }
  | .ready n buf =>
    { State.unopened with
      params := { Params.reference with portId := inv.port }
      bufSize := n, buf := buf
      hostMoves := [.portOpen inv.portOpens, .command transferWord, .portClose, .exit .success] }

end Sys2Proof.Machine
end

