-- ==== Sys2Proof/Safety.lean ====
section
/-! DEFINITION. What counts as a good end (R86), the fairness premise (R13), where a control write stores in the device, and
the machine's invariant: the session discipline (R63, R92, R93), the cursor (R29, R129) and the address invariant of a transfer
(R126). -/

namespace Sys2Proof.Machine

/-- The move is a word of the command stream. -/
def HostMove.isCommand : HostMove → Bool
  | .command _ => true
  | _ => false

/-- `k` steps, ending early at a stop. -/
def steps : Nat → State → Host.Outcome State Fault Refusal
  | 0, s => .next s
  | k + 1, s =>
    match step s with
    | .next t => steps k t
    | .fault r => .fault r
    | .refused r => .refused r

/-- R86: the run has ended well. -/
abbrev State.GoodEnd (s : State) : Prop :=
  s.hostMoves.all (fun m => !m.isCommand) = true ∧ s.pending = [] ∧ s.upc = none ∧ s.fault = none ∧ s.aborted = false

/-- `PORT_LIVE` (R13): every port write the block issues eventually completes. -/
abbrev State.PortLive (s : State) : Prop := Choice.hang ∉ s.choices

/-- No step has been stopped: no fault, no abort, and the host still runs. -/
abbrev State.Running (s : State) : Prop := s.fault = none ∧ s.aborted = false ∧ s.hostExit = none

/-- Between two commands: no command is in execution (R28). -/
abbrev State.Between (s : State) : Prop := s.pending = [] ∧ s.upc = none

/-- A state that can take the next command: running, no command in execution, the port open, the port accepting every write. -/
abbrev State.Ready (s : State) : Prop :=
  s.Running ∧ s.Between ∧ s.portOpen = true ∧ s.choices = [] ∧ paramsWf s.params = true

/-- Inside a session with the port open. -/
abbrev State.InSession (s : State) : Prop := s.portOpen = true ∧ s.phase = .enabled

/-- The state in which taking command `i` has raised the fault `f`: the record `(f, w, pos)` is kept and nothing else has
changed (R140). -/
def State.faulted (i : Instr) (f : Fault) (s : State) : State :=
  { s with
    word := commandWordOf i
    fault := some { reason := f, word := commandWordOf i, pending := s.pending, upc := s.upc } }

/-- What a port write that fails loses, whatever it was part of (R146): its register; for a control write the latches too, and one
unknown device write may occur (R48). No `WD` and no `WC` is emitted. -/
def State.lost (e : MicroEvent) (s : State) : State :=
  match e with
  | .wrCtrl _ =>
    { s with
      cr := none, latLo := .unknown, latHi := .unknown, draws := s.draws + 1
      dev := if Config.drawTaken s.draws then s.devWritten (Config.drawAddr s.draws) (Config.drawByte s.draws) else s.dev
      trace := s.trace ++ (if Config.drawTaken s.draws then [.devw none none none] else []) }
  | _ => { s with dr := none }

/-- The outcome `o` is the state in which the port write `e` has failed while word `w` was executed (R146): what it loses is lost,
`PortWriteFailed` is recorded with the position `p`, `u` (R140, R141), and nothing else has changed from `s`, the phase and the cursor
included. -/
def FailedAt (e : MicroEvent) (w : Option CommandWord) (p : List MicroEvent) (u : Option Upc) (s : State)
    (o : Host.Outcome State Fault Refusal) : Prop :=
  o = .next { s.lost e with
    word := w, pending := p, upc := u
    fault := some { reason := .portWriteFailed e, word := w, pending := p, upc := u } }

/-- The events a run from `s` to `t` has added. -/
def newEvents (s t : State) : List Event := t.trace.drop s.trace.length

/-- `WD(v)`. -/
def Event.isWd : Event → Bool
  | .wd _ => true
  | _ => false

/-- `WC(v)`. -/
def Event.isWc : Event → Bool
  | .wc _ => true
  | _ => false

/-- `CAP_LO(x)`. -/
def Event.isCapLo : Event → Bool
  | .capLo _ => true
  | _ => false

/-- `CAP_HI(x)`. -/
def Event.isCapHi : Event → Bool
  | .capHi _ => true
  | _ => false

/-- `DEVW(a, d)`. -/
def Event.isDevw : Event → Bool
  | .devw _ _ _ => true
  | _ => false

/-- A device write with an unknown part, `DEVW(?, …)`. -/
def Event.isUnknownWrite : Event → Bool
  | .devw hi lo d => !(hi.isSome && lo.isSome && d.isSome)
  | _ => false

/-- The address and byte of a device write that is known (R31). -/
def Event.knownWrite : Event → Option (Addr × Byte)
  | .devw (some h) (some l) (some d) => some (joinAddr h l, d)
  | _ => none

/-- The byte of a known low capture. -/
def Event.knownLow : Event → Option Byte
  | .capLo x => x
  | _ => none

/-- The byte of a known high capture. -/
def Event.knownHigh : Event → Option Byte
  | .capHi x => x
  | _ => none

/-- The kilobytes of a progress event. -/
def Event.progressValue : Event → Option Nat
  | .progress k => some k
  | _ => none

/-- The cell a reaction of the device writes, if any: the address of R47, or the drawn one of R48. -/
def storedCell (r : DeviceReaction) (s : State) : Option Nat :=
  match r with
  | .quiet => none
  | .write h l _ => some (s.devAddr (joinAddr h l))
  | .unknown _ _ _ => some (s.devAddr (Config.drawAddr s.draws))
  | .spurious => if Config.drawTaken s.draws then some (s.devAddr (Config.drawAddr s.draws)) else none

/-- The cell a WR_CTRL of `v` stores to, if any: by the reaction to the lines it sets, or, if it fails, by the unknown write of
R146. -/
def ctrlStoredCell (v : Byte) (s : State) : Option Nat :=
  if s.writeFails then storedCell .spurious s
  else match physInv s.params v with
    | some n => storedCell (deviceReaction s.lines n s) s
    | none =>
      if s.cr = some v then none
      else storedCell (deviceReaction s.lines (Config.drawLines s.draws) s) { s with draws := s.draws + 1 }

/-- The control register holds the byte of a named control state (R62). -/
abbrev State.holds (s : State) (c : Control) : Prop := s.cr = some (ctrlByte s.params c)

/-- The micro-events still to perform lead the control lines along the transitions of R63 back to `C_IDLE`, from the named
state `c`; a latch is open only under its own open state, and a strobe pulse finds both latches held and `DR` known (R47, R111,
R172). `hi`, `lo` and `dr` say whether the latches are held and `DR` is known. -/
def pendingOk (p : Params) : (c : Control) → (hi lo dr : Bool) → List MicroEvent → Prop
  | c, _, _, _, [] => c = .idle
  | c, hi, lo, _, .wrData _ :: rest => c = .idle ∧ pendingOk p .idle hi lo true rest
  | c, hi, lo, dr, .progress _ :: rest => c = .idle ∧ pendingOk p .idle hi lo dr rest
  | .idle, hi, lo, dr, .wrCtrl v :: rest =>
    (v = ctrlByte p .highOpen ∧ pendingOk p .highOpen false lo dr rest) ∨
    (v = ctrlByte p .lowOpen ∧ pendingOk p .lowOpen hi false dr rest) ∨
    (v = ctrlByte p .strobe ∧ hi = true ∧ lo = true ∧ dr = true ∧ pendingOk p .strobe hi lo dr rest)
  | .highOpen, _, lo, dr, .wrCtrl v :: rest =>
    v = ctrlByte p .idle ∧ dr = true ∧ pendingOk p .idle true lo dr rest
  | .lowOpen, hi, _, dr, .wrCtrl v :: rest =>
    v = ctrlByte p .idle ∧ dr = true ∧ pendingOk p .idle hi true dr rest
  | .strobe, hi, lo, dr, .wrCtrl v :: rest =>
    v = ctrlByte p .idle ∧ hi = true ∧ lo = true ∧ dr = true ∧ pendingOk p .idle hi lo dr rest
  | .off, _, _, _, .wrCtrl _ :: _ => False
  | _, _, _, _, .complete :: _ => False

/-- The state between micro-events outside TRANSFER: in a session the remaining micro-events fit the lines; outside one nothing
remains, and the lines are unknown or `C_OFF` (R92, R93); with the port closed nothing remains either, and the port's registers are
unknown (R36, R171). -/
def State.CommandOk (s : State) : Prop :=
  s.cursor = none ∧
  (s.portOpen = true → s.phase = .enabled →
    ∃ c, s.holds c ∧ pendingOk s.params c s.latHi.isHeld s.latLo.isHeld s.dr.isSome s.pending) ∧
  (s.portOpen = true → s.phase = .idle → s.pending = [] ∧ (s.cr = none ∨ s.holds .off)) ∧
  (s.portOpen = false → s.pending = [] ∧ s.dr = none ∧ s.cr = none)

/-- The control lines before each event of the micro-program (R124). -/
def Upc.control : Upc → Control
  | .s4 => .highOpen
  | .s7 => .lowOpen
  | .s10 => .strobe
  | .s12 => .off
  | _ => .idle

/-- What holds of the latches and `DR` before the event of a state of cycle `c` (R126). -/
def State.cycleOk (s : State) (u : Upc) (c : Nat) : Prop :=
  match u with
  | .s1 => progressDue c = true
  | .s2 => relatchDue (cursorAddr c) = true
  | .s3 => s.dr = some (highByte (cursorAddr c))
  | .s4 => s.dr = some (highByte (cursorAddr c)) ∧ s.latHi = .opened
  | .s5 => s.latHi = .held (highByte (cursorAddr c))
  | .s6 => s.latHi = .held (highByte (cursorAddr c)) ∧ s.dr = some (lowByte (cursorAddr c))
  | .s7 => s.latHi = .held (highByte (cursorAddr c)) ∧ s.dr = some (lowByte (cursorAddr c)) ∧ s.latLo = .opened
  | .s8 => s.latHi = .held (highByte (cursorAddr c)) ∧ s.latLo = .held (lowByte (cursorAddr c))
  | .s9 => s.latHi = .held (highByte (cursorAddr c)) ∧ s.latLo = .held (lowByte (cursorAddr c)) ∧
      s.dr = some (s.bufByte (cursorAddr c))
  | .s10 => s.latHi = .held (highByte (cursorAddr c)) ∧ s.latLo = .held (lowByte (cursorAddr c)) ∧
      s.dr = some (s.bufByte (cursorAddr c))
  | _ => True

/-- The state between micro-events of TRANSFER: the cursor's range (R29, R129), the lines, the phase, and `cycleOk`. S0's event is
performed in the step that admits TRANSFER, so no boundary of a run that goes on stands at S0 (R83). -/
def State.TransferOk (s : State) (u : Upc) : Prop :=
  s.pending = [] ∧ s.portOpen = true ∧ s.holds u.control ∧
  match u with
  | .s0 => False
  | .s11 => s.phase = .enabled ∧ s.cursor = some Config.cycles
  | .s12 => s.phase = .idle ∧ s.cursor = none
  | u => s.phase = .enabled ∧ ∃ c, c < Config.cycles ∧ s.cursor = some c ∧ s.cycleOk u c

/-- The sequencer's part of the invariant (R28, R29). -/
def State.SequencerOk (s : State) : Prop :=
  match s.upc with
  | none => s.CommandOk
  | some u => s.TransferOk u

/-- The invariant of the machine: parameters and buffer as the spec asks (R11, R49, R61), the device memory in canonical form, and,
as long as the run has neither faulted nor been aborted, the sequencer's part. -/
structure State.Inv (s : State) : Prop where
  /-- The open parameters are as the spec asks. -/
  params : paramsWf s.params = true
  /-- `DEV` is in canonical form and lists only cells the target has. -/
  dev : s.devWf
  /-- `BUF` is in canonical form and lists only indexes below `N`. -/
  buf : s.bufWf
  /-- `N` is a power of two from 1 to 65536. -/
  size : bufSizeOk s.bufSize = true
  /-- The session discipline and the transfer's invariant. -/
  sequencer : s.fault = none → s.aborted = false → s.SequencerOk

end Sys2Proof.Machine
end

