-- ==== Sys2Proof/Certificates/Slice0/Obligations.lean ====
section
/-! DEFINITION. The statements for the provers, each from the numbered rules its docstring names. Four things in them are the
model's own ways of writing what the rules say, not rules: the register `word` (log entry 14), the free values `Config.draw…` with
their counter `draws` (log entry 7), the list `choices` of what happens at a step boundary (log entries 3 and 4), and the host's moves
`hostMoves` with the refusals that answer for 'no step' (log entries 1 and 2). -/

open Sys2Proof Sys2Proof.Machine

/-! ### Encoding -/

/-- R64 to R68: decoding the word of any instruction gives it back, every operand at every value. -/
def Obligations.DecodeOfEncode : Prop :=
  ∀ i : Instr, decode (encode i) = .instr i

/-- R64 to R67: a command word has one spelling: whatever decodes is the word the encoder writes. -/
def Obligations.EncodeOfDecode : Prop :=
  ∀ (w : CommandWord) (i : Instr), decodeCommand w = .instr i → encode i = .command w

/-- R67: exactly the four listed cases are illegal, and the machine faults on such a word with `IllegalCommand`, whatever the port
and the phase. -/
def Obligations.IllegalWordsFault : Prop :=
  ∀ (w : CommandWord),
    ((∃ r, decodeCommand w = .illegal r) ↔
      (w.extractLsb' 20 4).toNat = 0 ∨ 8 ≤ (w.extractLsb' 20 4).toNat ∨ w.extractLsb' 16 4 ≠ 0 ∨
      ((w.extractLsb' 20 4).toNat ∈ [3, 4, 5] ∧ w.extractLsb' 8 8 ≠ 0) ∨
      ((w.extractLsb' 20 4).toNat ∈ [1, 2, 7] ∧ w.extractLsb' 0 16 ≠ 0)) ∧
    ∀ (s : State) (rest : List HostMove) (r : Illegal), s.Running → s.Between → s.choices = [] →
      s.hostMoves = .command w :: rest → decodeCommand w = .illegal r →
      step s = .next { s with
        hostMoves := rest, word := some w
        fault := some { reason := .illegalCommand, word := some w, pending := [], upc := none } }

/-- R64, R65, R68: a few words written out from the encoding tables. -/
def Obligations.WordsDecodeAsTabled : Prop :=
  decodeCommand 0x100000 = .instr .enable ∧ decodeCommand 0x200000 = .instr .disable ∧
  decodeCommand 0x300034 = .instr (.latchLow 0x34) ∧ decodeCommand 0x400012 = .instr (.latchHigh 0x12) ∧
  decodeCommand 0x5000AB = .instr (.strobe 0xAB) ∧ decodeCommand 0x60FFFF = .instr (.cycle 0xFFFF) ∧
  decodeCommand 0x700000 = .instr .transfer ∧ decodeMicro 0x0AB = .wrData 0xAB ∧ decodeMicro 0x10F = .wrCtrl 0x0F

/-! ### The step -/

/-- R83, cases 2 and 3: a step with no command in execution is the meaning of the next decoded word, with the word taken off the
stream; a step with a port write at the head of `pending` is that micro-op's meaning, with the head removed if it did not fail. -/
def Obligations.StepRunsDecodedInstruction : Prop :=
  (∀ (s : State) (w : CommandWord) (rest : List HostMove) (i : Instr), s.Running → s.Between →
    s.hostMoves = .command w :: rest → decodeCommand w = .instr i → s.choices.head? ≠ some .abort →
    ¬ (s.portRefuses = true ∧ s.nextWritesPort = true) →
    step s = onNext State.consumeChoice (exec i { s with hostMoves := rest })) ∧
  ∀ (s : State) (i : Instr) (e : MicroEvent) (rest : List MicroEvent) (v : Byte), s.Running → s.pending = e :: rest →
    (i = .wrData v ∧ e = .wrData v ∨ i = .wrCtrl v ∧ e = .wrCtrl v) → s.choices.head? ≠ some .abort →
    s.portRefuses = false →
    step s = onNext (fun t => State.consumeChoice (if s.writeFails then t else { t with pending := rest })) (exec i s)

/-- The word placed by `withFetchWord` is what the very next step runs (the model's own placing, log entry 1; R83). -/
def Obligations.PlacedWordRuns : Prop :=
  ∀ (s : State) (w : Nat) (i : Instr), s.Running → decodeTableWord 24 w = some i →
    step (s.withFetchWord 24 w) =
      exec i { s with pending := [], upc := none, cursor := none, choices := [] }

/-- R140: once a fault is recorded the block has no step, and no rule clears it; R149 likewise for an abort. -/
def Obligations.StoppedForGood : Prop :=
  (∀ (s : State) (r : FaultRecord), s.fault = some r → step s = .fault r.reason) ∧
  (∀ s : State, s.fault = none → s.aborted = true → step s = .refused .aborted) ∧
  (∀ s : State, s.fault = none → s.aborted = false → s.hostExit ≠ none → step s = .refused .hostExited)

/-- R83, case 4: with no command in execution and none issued, the block has no step. -/
def Obligations.NoCommandNoStep : Prop :=
  ∀ s : State, s.Running → s.Between → s.hostMoves = [] → s.choices.head? ≠ some .abort → step s = .refused .noCommand

/-- R149: an abort at a step boundary, which is never a good end (R86). R149 speaks of the boundaries after the port opened; that an
abort does the same at every boundary of a running machine, before the port opens and after it closes, is the model's reading (log
entry 15). -/
def Obligations.AbortLosesEverything : Prop :=
  ∀ (s : State) (rest : List Choice), s.Running → s.choices = .abort :: rest →
    ∃ t, step s = .next t ∧ t.aborted = true ∧ t.dr = none ∧ t.cr = none ∧ t.latLo = .unknown ∧ t.latHi = .unknown ∧
      (∀ cell, t.devKnown cell = none) ∧ t.trace = s.trace ∧ step t = .refused .aborted ∧ ¬ t.GoodEnd

/-- R148: a step that writes the port is taken only when the port accepts the write; a port that refuses forever leaves the block in
its step forever, with no further event, and that is no good end (R86). -/
def Obligations.HungPortNeverMoves : Prop :=
  (∀ (s : State) (rest : List Choice), s.Running → s.choices = .stall :: rest → s.nextWritesPort = true →
    step s = .next { s with choices := rest }) ∧
  ∀ (s : State) (k : Nat), s.Running → s.choices.head? = some .hang → s.nextWritesPort = true →
    steps k s = .next s ∧ ¬ s.GoodEnd

/-! ### Reset and the port -/

/-- R36, R163: the state after a successful port open, from any state; `BUF`, `N` and the parameters stay as the host built them. A
failed open ends the process with status 1. -/
def Obligations.PortOpenGivesResetState : Prop :=
  (∀ (s : State) (rest : List HostMove), s.Running → s.Between → s.choices = [] → s.hostMoves = .portOpen true :: rest →
    ∃ t, step s = .next t ∧ t.dr = none ∧ t.cr = none ∧ t.lines = none ∧ t.latLo = .unknown ∧ t.latHi = .unknown ∧
      (∀ cell, t.devKnown cell = none) ∧ t.portOpen = true ∧ t.phase = .idle ∧ t.pending = [] ∧ t.upc = none ∧
      t.cursor = none ∧ t.buf = s.buf ∧ t.bufSize = s.bufSize ∧ t.params = s.params ∧ t.trace = [] ∧ t.fault = none ∧
      t.aborted = false ∧ t.hostMoves = rest) ∧
  (∀ (s : State) (rest : List HostMove), s.Running → s.Between → s.choices = [] → s.hostMoves = .portOpen false :: rest →
    ∃ t, step s = .next t ∧ t.hostExit = some .failure ∧ t.portOpen = s.portOpen ∧ t.trace = s.trace ∧
      step t = .refused .hostExited)

/-- R36, R160: the reset state itself. -/
def Obligations.ResetStateValues : Prop :=
  State.reset.dr = none ∧ State.reset.cr = none ∧ State.reset.lines = none ∧ State.reset.latLo = .unknown ∧
  State.reset.latHi = .unknown ∧ (∀ cell, State.reset.devKnown cell = none) ∧ State.reset.portOpen = true ∧
  State.reset.phase = .idle ∧ State.reset.pending = [] ∧ State.reset.upc = none ∧ State.reset.cursor = none ∧
  State.reset.trace = [] ∧ State.reset.fault = none ∧ State.reset.aborted = false

/-- R171: port close forgets the port registers and keeps the latches and `DEV`. -/
def Obligations.PortCloseKeepsDevice : Prop :=
  ∀ (s : State) (rest : List HostMove), s.Running → s.Between → s.choices = [] → s.hostMoves = .portClose :: rest →
    step s = .next { s with hostMoves := rest, portOpen := false, dr := none, cr := none }

/-! ### The micro-ops -/

/-- R80: `WR_DATA v`; a failing write is R146. -/
def Obligations.WrDataEffect : Prop :=
  ∀ (v : Byte) (s : State),
    (s.writeFails = false → exec (.wrData v) s = .next { s with dr := some v, trace := s.trace ++ [.wd v] }) ∧
    (s.writeFails = true →
      ∃ r, exec (.wrData v) s = .next { s with dr := none, fault := some r } ∧ r.reason = .portWriteFailed (.wrData v))

/-- R81: `WR_CTRL v` for every byte: `CR` takes the byte, `WC(v)` is the first new event, at most one device write and one event of
each latch follow, in that order, and nothing else of the machine changes but the latches, `DEV` and the free-value counter. For a byte
outside the image of `PHYS_MAP` that the lines are a free value is the model's choice (log entry 8). -/
def Obligations.WrCtrlEffect : Prop :=
  ∀ (v : Byte) (s : State), s.writeFails = false →
    ∃ t ds ls hs, exec (.wrCtrl v) s = .next t ∧ t.cr = some v ∧
      t.trace = s.trace ++ [.wc v] ++ ds ++ ls ++ hs ∧
      ds.length ≤ 1 ∧ ls.length ≤ 1 ∧ hs.length ≤ 1 ∧
      (∀ e ∈ ds, e.isDevw = true) ∧ (∀ e ∈ ls, e.isCapLo = true) ∧ (∀ e ∈ hs, e.isCapHi = true) ∧
      t = { s with cr := t.cr, latLo := t.latLo, latHi := t.latHi, dev := t.dev, trace := t.trace, draws := t.draws }

/-- R81, R53: a WR_CTRL of the byte `CR` already holds causes no edge and no reaction, whatever the byte; that this also holds
outside the image of `PHYS_MAP` is the model's reading (log entry 8). -/
def Obligations.SameControlByteNoReaction : Prop :=
  ∀ (v : Byte) (s : State), s.writeFails = false → s.cr = some v →
    exec (.wrCtrl v) s = .next { s with trace := s.trace ++ [.wc v] }

/-- R44: the low latch's reaction to every control write whose byte carries a line vector. -/
def Obligations.LowLatchReaction : Prop :=
  ∀ (v : Byte) (n : Lines) (s : State), s.writeFails = false → physInv s.params v = some n →
    ∃ t, exec (.wrCtrl v) s = .next t ∧
      match s.lines with
      | none =>
        if n.getLsbD 1 then t.latLo = .unknown ∧ (newEvents s t).filter Event.isCapLo = [.capLo none]
        else t.latLo = .opened ∧ (newEvents s t).filter Event.isCapLo = []
      | some o =>
        if o.getLsbD 1 ∧ ¬ n.getLsbD 1 then t.latLo = .opened ∧ (newEvents s t).filter Event.isCapLo = []
        else if ¬ o.getLsbD 1 ∧ n.getLsbD 1 then
          match s.dr with
          | none => t.latLo = .unknown ∧ (newEvents s t).filter Event.isCapLo = [.capLo none]
          | some b => t.latLo = .held b ∧ (newEvents s t).filter Event.isCapLo = [.capLo (some b)]
        else t.latLo = s.latLo ∧ (newEvents s t).filter Event.isCapLo = []

/-- R45: the high latch's reaction, the same on `ADDR_HIGH_INV`. -/
def Obligations.HighLatchReaction : Prop :=
  ∀ (v : Byte) (n : Lines) (s : State), s.writeFails = false → physInv s.params v = some n →
    ∃ t, exec (.wrCtrl v) s = .next t ∧
      match s.lines with
      | none =>
        if n.getLsbD 2 then t.latHi = .unknown ∧ (newEvents s t).filter Event.isCapHi = [.capHi none]
        else t.latHi = .opened ∧ (newEvents s t).filter Event.isCapHi = []
      | some o =>
        if o.getLsbD 2 ∧ ¬ n.getLsbD 2 then t.latHi = .opened ∧ (newEvents s t).filter Event.isCapHi = []
        else if ¬ o.getLsbD 2 ∧ n.getLsbD 2 then
          match s.dr with
          | none => t.latHi = .unknown ∧ (newEvents s t).filter Event.isCapHi = [.capHi none]
          | some b => t.latHi = .held b ∧ (newEvents s t).filter Event.isCapHi = [.capHi (some b)]
        else t.latHi = s.latHi ∧ (newEvents s t).filter Event.isCapHi = []

/-- R46: a held latch keeps its byte across every WR_DATA and across every WR_CTRL in which its own line is steady at 1. -/
def Obligations.HeldLatchKeepsItsByte : Prop :=
  ∀ (b v : Byte) (s t : State), s.writeFails = false →
    (exec (.wrData v) s = .next t → (s.latLo = .held b → t.latLo = .held b) ∧ (s.latHi = .held b → t.latHi = .held b)) ∧
    ∀ o n : Lines, s.lines = some o → physInv s.params v = some n → exec (.wrCtrl v) s = .next t →
      (s.latLo = .held b → o.getLsbD 1 = true → n.getLsbD 1 = true → t.latLo = .held b) ∧
      (s.latHi = .held b → o.getLsbD 2 = true → n.getLsbD 2 = true → t.latHi = .held b)

/-- R47, R48: what a control write makes the device do, case by case: the known write at the latched address, the write of
which a part is unknown, the write that may have happened, and no write. The drawn address, byte and verdict are free values. -/
def Obligations.DeviceReactionCases : Prop :=
  ∀ (v : Byte) (n : Lines) (s : State), s.writeFails = false → physInv s.params v = some n →
    ∃ t, exec (.wrCtrl v) s = .next t ∧
      let unknownWrite := s.devWritten (Config.drawAddr s.draws) (Config.drawByte s.draws)
      let maybe := if Config.drawTaken s.draws
        then t.dev = unknownWrite ∧ (newEvents s t).filter Event.isDevw = [.devw none none none]
        else t.dev = s.dev ∧ (newEvents s t).filter Event.isDevw = []
      let quiet := t.dev = s.dev ∧ (newEvents s t).filter Event.isDevw = []
      match s.lines with
      | none => if n.getLsbD 3 = false ∧ n.getLsbD 0 = true then maybe else quiet
      | some o =>
        if o.getLsbD 3 = true ∧ n.getLsbD 3 = false then
          if o.getLsbD 0 = true ∧ n.getLsbD 0 = true then
            let hi := if o.getLsbD 2 ∧ n.getLsbD 2 then (match s.latHi with | .held b => some b | _ => none) else none
            let lo := if o.getLsbD 1 ∧ n.getLsbD 1 then (match s.latLo with | .held b => some b | _ => none) else none
            match hi, lo, s.dr with
            | some h, some l, some d => t.dev = s.devWritten (h ++ l) d ∧
                (newEvents s t).filter Event.isDevw = [.devw (some h) (some l) (some d)]
            | _, _, _ => t.dev = unknownWrite ∧ (newEvents s t).filter Event.isDevw = [.devw hi lo s.dr]
          else if o.getLsbD 0 = true ∨ n.getLsbD 0 = true then maybe
          else quiet
        else quiet

/-- R49, R50: a device write changes cell `a mod 2^k` and no other; under `overwrite` the cell becomes the byte. -/
def Obligations.DeviceWriteTouchesOneCell : Prop :=
  ∀ (s : State) (a : Addr) (v : Byte) (cell : Nat),
    Memory.read (s.devWritten a v) cell =
      if cell = a.toNat % 2 ^ s.params.devAddrBits then
        some (match s.params.deviceWrite with
          | .overwrite => v
          | .target => Config.deviceWrite (s.devCell cell) v)
      else s.devKnown cell

/-- R146: a port write that fails, as a micro-op, as the first write of each command, as the head of `pending`, and as the event of
each state of the micro-program: its register is `⊥`, no `WD` or `WC` appears, a failed control write loses both latches and may have
caused one unknown device write, `PortWriteFailed` is recorded, and the phase, the cursor and all else stay. The recorded position is
the state's own `pending` and `upc` (R140); which they are says FailedWritePosition. -/
def Obligations.FailedWriteFaults : Prop :=
  (∀ s : State, s.params.portWriteFallible = false → s.writeFails = false) ∧
  (∀ (v : Byte) (s : State), s.writeFails = true →
    (∃ p u, FailedAt (.wrData v) s.word p u s (exec (.wrData v) s)) ∧
    ∃ p u, FailedAt (.wrCtrl v) s.word p u s (exec (.wrCtrl v) s)) ∧
  (∀ s : State, s.writeFails = true → s.portOpen = true → s.phase = .idle →
    ∀ q ∈ [(Instr.enable, (0x100000 : CommandWord)), (.transfer, 0x700000)],
      ∃ p u, FailedAt (.wrCtrl (ctrlByte s.params .idle)) (some q.2) p u s (exec q.1 s)) ∧
  (∀ (b : Byte) (s : State), s.writeFails = true → s.InSession →
    (∃ p u, FailedAt (.wrCtrl (ctrlByte s.params .off)) (some 0x200000) p u s (exec .disable s)) ∧
    (∃ p u, FailedAt (.wrData b) (some (0x300000 + b.setWidth 24)) p u s (exec (.latchLow b) s)) ∧
    (∃ p u, FailedAt (.wrData b) (some (0x400000 + b.setWidth 24)) p u s (exec (.latchHigh b) s)) ∧
    ∀ h l, s.latHi = .held h → s.latLo = .held l →
      ∃ p u, FailedAt (.wrData b) (some (0x500000 + b.setWidth 24)) p u s (exec (.strobe b) s)) ∧
  (∀ (a : Addr) (s : State), s.writeFails = true → s.InSession →
    (a.toNat % 1024 ≠ 0 → a.toNat % 256 = 0 →
      ∃ p u, FailedAt (.wrData (a.extractLsb' 8 8)) (some (0x600000 + a.setWidth 24)) p u s (exec (.cycle a) s)) ∧
    ∀ h, a.toNat % 256 ≠ 0 → s.latHi = .held h →
      ∃ p u, FailedAt (.wrData (a.extractLsb' 0 8)) (some (0x600000 + a.setWidth 24)) p u s (exec (.cycle a) s)) ∧
  ∀ (s : State) (later : List Choice), s.Running → s.params.portWriteFallible = true → s.choices = .writeFails :: later →
    (∀ e rest, s.pending = e :: rest → e.isPortWrite = true →
      ∃ p u, FailedAt e s.word p u { s with choices := later } (step s)) ∧
    (∀ c, s.pending = [] → s.cursor = some c → c < 65536 →
      ∀ q ∈ [(Upc.s2, BitVec.ofNat 8 (c / 256)), (.s5, BitVec.ofNat 8 c), (.s8, s.readBuf (c % s.bufSize))],
        s.upc = some q.1 → ∃ p u, FailedAt (.wrData q.2) s.word p u { s with choices := later } (step s)) ∧
    (∀ c, s.pending = [] → s.cursor = some c →
      ∀ q ∈ [(Upc.s3, Control.highOpen), (.s4, .idle), (.s6, .lowOpen), (.s7, .idle), (.s9, .strobe), (.s10, .idle)],
        s.upc = some q.1 →
          ∃ p u, FailedAt (.wrCtrl (ctrlByte s.params q.2)) s.word p u { s with choices := later } (step s)) ∧
    (s.pending = [] → ∀ q ∈ [(Upc.s0, Control.idle), (.s11, .off)], s.upc = some q.1 →
      ∃ p u, FailedAt (.wrCtrl (ctrlByte s.params q.2)) s.word p u { s with choices := later } (step s))

/-- R140, R146: the position a failed write records and leaves: the failed micro-op still stands at the head of `pending`, or `upc`
still names its state. That it is not removed and `upc` does not move is the model's reading (log entry 13). -/
def Obligations.FailedWritePosition : Prop :=
  (∀ (v : Byte) (s : State), s.writeFails = true →
    FailedAt (.wrData v) s.word s.pending s.upc s (exec (.wrData v) s) ∧
    FailedAt (.wrCtrl v) s.word s.pending s.upc s (exec (.wrCtrl v) s)) ∧
  (∀ s : State, s.writeFails = true → s.portOpen = true → s.phase = .idle →
    FailedAt (.wrCtrl (ctrlByte s.params .idle)) (some 0x100000) [.wrCtrl (ctrlByte s.params .idle)] s.upc s (exec .enable s) ∧
    FailedAt (.wrCtrl (ctrlByte s.params .idle)) (some 0x700000) s.pending (some .s0) s (exec .transfer s)) ∧
  (∀ (b : Byte) (s : State), s.writeFails = true → s.InSession →
    let pulse (c : Control) : List MicroEvent := [.wrData b, .wrCtrl (ctrlByte s.params c), .wrCtrl (ctrlByte s.params .idle)]
    FailedAt (.wrCtrl (ctrlByte s.params .off)) (some 0x200000) [.wrCtrl (ctrlByte s.params .off)] s.upc s (exec .disable s) ∧
    FailedAt (.wrData b) (some (0x300000 + b.setWidth 24)) (pulse .lowOpen) s.upc s (exec (.latchLow b) s) ∧
    FailedAt (.wrData b) (some (0x400000 + b.setWidth 24)) (pulse .highOpen) s.upc s (exec (.latchHigh b) s) ∧
    ∀ h l, s.latHi = .held h → s.latLo = .held l →
      FailedAt (.wrData b) (some (0x500000 + b.setWidth 24)) (pulse .strobe) s.upc s (exec (.strobe b) s)) ∧
  (∀ (a : Addr) (s : State), s.writeFails = true → s.InSession →
    let pulse (b : Byte) (c : Control) : List MicroEvent :=
      [.wrData b, .wrCtrl (ctrlByte s.params c), .wrCtrl (ctrlByte s.params .idle)]
    let low := pulse (a.extractLsb' 0 8) .lowOpen ++ pulse (s.readBuf (a.toNat % s.bufSize)) .strobe
    (a.toNat % 1024 ≠ 0 → a.toNat % 256 = 0 →
      FailedAt (.wrData (a.extractLsb' 8 8)) (some (0x600000 + a.setWidth 24)) (pulse (a.extractLsb' 8 8) .highOpen ++ low) s.upc s
        (exec (.cycle a) s)) ∧
    ∀ h, a.toNat % 256 ≠ 0 → s.latHi = .held h →
      FailedAt (.wrData (a.extractLsb' 0 8)) (some (0x600000 + a.setWidth 24)) low s.upc s (exec (.cycle a) s)) ∧
  ∀ (s : State) (later : List Choice), s.Running → s.params.portWriteFallible = true → s.choices = .writeFails :: later →
    (∀ e rest, s.pending = e :: rest → e.isPortWrite = true →
      FailedAt e s.word s.pending s.upc { s with choices := later } (step s)) ∧
    ∀ q c, s.pending = [] → s.upc = some q → s.cursor = some c → q ≠ .s1 → q ≠ .s12 →
      FailedAt (q.event c s) s.word [] (some q) { s with choices := later } (step s)

/-- R14, R85: a failure can befall only a port write under `PORT_WRITE_FALLIBLE`. That a failure chosen at any other boundary has no
effect is the model's reading (log entry 21). -/
def Obligations.OnlyPortWritesFail : Prop :=
  ∀ (s : State) (later : List Choice), s.choices = .writeFails :: later →
    (s.params.portWriteFallible = false ∨ (∃ e rest, s.pending = e :: rest ∧ e.isPortWrite = false) ∨
      (s.pending = [] ∧ (s.upc = some .s1 ∨ s.upc = some .s12)) ∨
      (s.Between ∧ ∀ w, s.hostMoves.head? ≠ some (.command w))) →
    step s = step { s with choices := .proceed :: later }

/-! ### The session bracket -/

/-- R90: ENABLE: its word, its admission, and its effect in general, at a freshly opened port (`CR` is `⊥`) and after a session (`CR`
is `C_OFF`). The possible write at a fresh port is a free value (log entry 7); `word` is the model's (log entry 14). -/
def Obligations.EnableCompletes : Prop :=
  decodeCommand 0x100000 = .instr .enable ∧
  (∀ s : State, s.portOpen = false → exec .enable s = .next (s.faulted .enable .portNotOpen)) ∧
  (∀ s : State, s.portOpen = true → s.phase = .enabled → exec .enable s = .next (s.faulted .enable .alreadyEnabled)) ∧
  ∀ s : State, s.portOpen = true → s.phase = .idle → s.writeFails = false →
    (exec .enable s = .next { s.writeCtrl (ctrlByte s.params .idle) with
      word := some 0x100000, pending := [], phase := .enabled }) ∧
    (paramsWf s.params = true → s.cr = none →
      exec .enable s = .next { s with
        word := some 0x100000, pending := [], phase := .enabled, cr := some (ctrlByte s.params .idle)
        latLo := .unknown, latHi := .unknown, draws := s.draws + 1
        dev := if Config.drawTaken s.draws then s.devWritten (Config.drawAddr s.draws) (Config.drawByte s.draws) else s.dev
        trace := s.trace ++ [.wc (ctrlByte s.params .idle)] ++
          (if Config.drawTaken s.draws then [.devw none none none] else []) ++ [.capLo none, .capHi none] }) ∧
    (paramsWf s.params = true → s.holds .off →
      exec .enable s = .next { s with
        word := some 0x100000, pending := [], phase := .enabled, cr := some (ctrlByte s.params .idle)
        trace := s.trace ++ [.wc (ctrlByte s.params .idle)] })

/-- R91: DISABLE: its word, its admission, and its effect in general and from `C_IDLE` (`word` is the model's, log entry 14). -/
def Obligations.DisableCompletes : Prop :=
  decodeCommand 0x200000 = .instr .disable ∧
  (∀ s : State, s.portOpen = false → exec .disable s = .next (s.faulted .disable .portNotOpen)) ∧
  (∀ s : State, s.portOpen = true → s.phase = .idle → exec .disable s = .next (s.faulted .disable .notEnabled)) ∧
  ∀ s : State, s.InSession → s.writeFails = false →
    (exec .disable s = .next { s.writeCtrl (ctrlByte s.params .off) with
      word := some 0x200000, pending := [], phase := .idle }) ∧
    (paramsWf s.params = true → s.holds .idle →
      exec .disable s = .next { s with
        word := some 0x200000, pending := [], phase := .idle, cr := some (ctrlByte s.params .off)
        trace := s.trace ++ [.wc (ctrlByte s.params .off)] })

/-! ### Latching, strobe, cycle -/

/-- R83, R100, R101, R110: executing LATCH_LOW, LATCH_HIGH or STROBE admits it and performs its data write; two control writes
remain. -/
def Obligations.LatchAndStrobeFirstStep : Prop :=
  ∀ (b : Byte) (s : State), s.InSession → s.writeFails = false →
    exec (.latchLow b) s = .next { s with
      word := some (0x300000 + b.setWidth 24), dr := some b, trace := s.trace ++ [.wd b]
      pending := [.wrCtrl (ctrlByte s.params .lowOpen), .wrCtrl (ctrlByte s.params .idle)] } ∧
    exec (.latchHigh b) s = .next { s with
      word := some (0x400000 + b.setWidth 24), dr := some b, trace := s.trace ++ [.wd b]
      pending := [.wrCtrl (ctrlByte s.params .highOpen), .wrCtrl (ctrlByte s.params .idle)] } ∧
    ∀ h l : Byte, s.latHi = .held h → s.latLo = .held l →
      exec (.strobe b) s = .next { s with
        word := some (0x500000 + b.setWidth 24), dr := some b, trace := s.trace ++ [.wd b]
        pending := [.wrCtrl (ctrlByte s.params .strobe), .wrCtrl (ctrlByte s.params .idle)] }

/-- R100: LATCH_LOW is admitted in a session; it takes three steps and leaves `LAT_LO = Held(b)`; `LAT_HI` and `DEV` are unchanged. -/
def Obligations.LatchLowRuns : Prop :=
  (∀ (b : Byte) (s : State), s.portOpen = false → exec (.latchLow b) s = .next (s.faulted (.latchLow b) .portNotOpen)) ∧
  (∀ (b : Byte) (s : State), s.portOpen = true → s.phase = .idle →
    exec (.latchLow b) s = .next (s.faulted (.latchLow b) .notEnabled)) ∧
  ∀ (b : Byte) (s : State) (rest : List HostMove), s.Ready → s.phase = .enabled → s.holds .idle →
    s.hostMoves = .command (0x300000 + b.setWidth 24) :: rest →
    steps 3 s = .next { s with
      word := some (0x300000 + b.setWidth 24), hostMoves := rest, dr := some b, latLo := .held b
      trace := s.trace ++ [.wd b, .wc (ctrlByte s.params .lowOpen), .wc (ctrlByte s.params .idle), .capLo (some b)] }

/-- R101: LATCH_HIGH is admitted in a session; it takes three steps and leaves `LAT_HI = Held(b)`; `LAT_LO` and `DEV` are unchanged. -/
def Obligations.LatchHighRuns : Prop :=
  (∀ (b : Byte) (s : State), s.portOpen = false → exec (.latchHigh b) s = .next (s.faulted (.latchHigh b) .portNotOpen)) ∧
  (∀ (b : Byte) (s : State), s.portOpen = true → s.phase = .idle →
    exec (.latchHigh b) s = .next (s.faulted (.latchHigh b) .notEnabled)) ∧
  ∀ (b : Byte) (s : State) (rest : List HostMove), s.Ready → s.phase = .enabled → s.holds .idle →
    s.hostMoves = .command (0x400000 + b.setWidth 24) :: rest →
    steps 3 s = .next { s with
      word := some (0x400000 + b.setWidth 24), hostMoves := rest, dr := some b, latHi := .held b
      trace := s.trace ++ [.wd b, .wc (ctrlByte s.params .highOpen), .wc (ctrlByte s.params .idle), .capHi (some b)] }

/-- R110: STROBE is admitted in a session with both latches held; it takes three steps and writes the byte at the latched address, which stays latched. -/
def Obligations.StrobeRuns : Prop :=
  (∀ (b : Byte) (s : State), s.portOpen = false → exec (.strobe b) s = .next (s.faulted (.strobe b) .portNotOpen)) ∧
  (∀ (b : Byte) (s : State), s.portOpen = true → s.phase = .idle →
    exec (.strobe b) s = .next (s.faulted (.strobe b) .notEnabled)) ∧
  (∀ (b : Byte) (s : State), s.InSession → ((∀ h, s.latHi ≠ .held h) ∨ ∀ l, s.latLo ≠ .held l) →
    exec (.strobe b) s = .next (s.faulted (.strobe b) (.unlatchedAddress s.latHi s.latLo))) ∧
  ∀ (b h l : Byte) (s : State) (rest : List HostMove), s.Ready → s.phase = .enabled → s.holds .idle →
    s.latHi = .held h → s.latLo = .held l → s.hostMoves = .command (0x500000 + b.setWidth 24) :: rest →
    steps 3 s = .next { s with
      word := some (0x500000 + b.setWidth 24), hostMoves := rest, dr := some b, dev := s.devWritten (h ++ l) b
      trace := s.trace ++ [.wd b, .wc (ctrlByte s.params .strobe), .wc (ctrlByte s.params .idle),
        .devw (some h) (some l) (some b)] }

/-- R83, R120: executing CYCLE admits it and performs its first micro-event, the progress event, the high byte's data write or the
low byte's, by the address. The progress event is no port write, so it cannot fail; the other two are taken here when they do not.
-/
def Obligations.CycleFirstStep : Prop :=
  ∀ (a : Addr) (s : State), s.InSession →
    let d := s.readBuf (a.toNat % s.bufSize)
    let strobe : List MicroEvent := [.wrData d, .wrCtrl (ctrlByte s.params .strobe), .wrCtrl (ctrlByte s.params .idle)]
    let lowTail : List MicroEvent :=
      [.wrCtrl (ctrlByte s.params .lowOpen), .wrCtrl (ctrlByte s.params .idle)] ++ strobe
    let low : List MicroEvent := .wrData (a.extractLsb' 0 8) :: lowTail
    let highTail : List MicroEvent :=
      [.wrCtrl (ctrlByte s.params .highOpen), .wrCtrl (ctrlByte s.params .idle)] ++ low
    (a.toNat % 1024 = 0 → exec (.cycle a) s = .next { s with
      word := some (0x600000 + a.setWidth 24), trace := s.trace ++ [.progress (a.toNat / 1024)]
      pending := .wrData (a.extractLsb' 8 8) :: highTail }) ∧
    (s.writeFails = false → a.toNat % 1024 ≠ 0 → a.toNat % 256 = 0 → exec (.cycle a) s = .next { s with
      word := some (0x600000 + a.setWidth 24), dr := some (a.extractLsb' 8 8)
      trace := s.trace ++ [.wd (a.extractLsb' 8 8)], pending := highTail }) ∧
    (∀ h, s.writeFails = false → a.toNat % 256 ≠ 0 → s.latHi = .held h → exec (.cycle a) s = .next { s with
      word := some (0x600000 + a.setWidth 24), dr := some (a.extractLsb' 0 8)
      trace := s.trace ++ [.wd (a.extractLsb' 0 8)], pending := lowTail })

/-- R120: CYCLE's admission, and a whole CYCLE, in 6, 9 or 10 steps: `BUF[a mod N]` is written at the address the latches present. -/
def Obligations.CycleRuns : Prop :=
  (∀ (a : Addr) (s : State), s.portOpen = false → exec (.cycle a) s = .next (s.faulted (.cycle a) .portNotOpen)) ∧
  (∀ (a : Addr) (s : State), s.portOpen = true → s.phase = .idle →
    exec (.cycle a) s = .next (s.faulted (.cycle a) .notEnabled)) ∧
  (∀ (a : Addr) (s : State), s.InSession → a.toNat % 256 ≠ 0 → (∀ h, s.latHi ≠ .held h) →
    exec (.cycle a) s = .next (s.faulted (.cycle a) (.unlatchedAddress s.latHi s.latLo))) ∧
  ∀ (a : Addr) (s : State) (rest : List HostMove), s.Ready → s.phase = .enabled → s.holds .idle →
    s.hostMoves = .command (0x600000 + a.setWidth 24) :: rest →
    let d := s.readBuf (a.toNat % s.bufSize)
    let hi : Byte := a.extractLsb' 8 8
    let lo : Byte := a.extractLsb' 0 8
    let lowStrobe (h : Byte) : List Event :=
      [.wd lo, .wc (ctrlByte s.params .lowOpen), .wc (ctrlByte s.params .idle), .capLo (some lo),
       .wd d, .wc (ctrlByte s.params .strobe), .wc (ctrlByte s.params .idle), .devw (some h) (some lo) (some d)]
    let high : List Event :=
      [.wd hi, .wc (ctrlByte s.params .highOpen), .wc (ctrlByte s.params .idle), .capHi (some hi)]
    (∀ h, a.toNat % 256 ≠ 0 → s.latHi = .held h →
      steps 6 s = .next { s with
        word := some (0x600000 + a.setWidth 24), hostMoves := rest, dr := some d, latLo := .held lo
        dev := s.devWritten (h ++ lo) d, trace := s.trace ++ lowStrobe h }) ∧
    (a.toNat % 256 = 0 → a.toNat % 1024 ≠ 0 →
      steps 9 s = .next { s with
        word := some (0x600000 + a.setWidth 24), hostMoves := rest, dr := some d, latLo := .held lo, latHi := .held hi
        dev := s.devWritten a d, trace := s.trace ++ high ++ lowStrobe hi }) ∧
    (a.toNat % 1024 = 0 →
      steps 10 s = .next { s with
        word := some (0x600000 + a.setWidth 24), hostMoves := rest, dr := some d, latLo := .held lo, latHi := .held hi
        dev := s.devWritten a d, trace := s.trace ++ [.progress (a.toNat / 1024)] ++ high ++ lowStrobe hi })

/-- R121: a stale but held high latch is no fault: the byte goes to `{h, a[7:0]}`, and the cell of `a` keeps what it held. -/
def Obligations.StaleHighLatchWritesThere : Prop :=
  ∀ (a : Addr) (h : Byte) (s : State) (rest : List HostMove), s.Ready → s.phase = .enabled → s.holds .idle →
    a.toNat % 256 ≠ 0 → s.latHi = .held h → h ≠ a.extractLsb' 8 8 → s.hostMoves = .command (0x600000 + a.setWidth 24) :: rest →
    ∃ t, steps 6 s = .next t ∧ t.fault = none ∧
      t.dev = s.devWritten (h ++ a.extractLsb' 0 8) (s.readBuf (a.toNat % s.bufSize)) ∧
      (newEvents s t).filterMap Event.knownWrite = [(h ++ a.extractLsb' 0 8, s.readBuf (a.toNat % s.bufSize))] ∧
      (s.params.devAddrBits = 16 → t.devKnown a.toNat = s.devKnown a.toNat ∧
        (s.params.deviceWrite = .overwrite →
          t.devKnown (256 * h.toNat + a.toNat % 256) = some (s.readBuf (a.toNat % s.bufSize))))

/-! ### Transfer -/

/-- R83, R122, R124: executing TRANSFER admits it and performs S0, the ENABLE write. -/
def Obligations.TransferFirstStep : Prop :=
  ∀ s : State, s.portOpen = true → s.phase = .idle → s.writeFails = false →
    exec .transfer s = .next { s.writeCtrl (ctrlByte s.params .idle) with
      word := some 0x700000, phase := .enabled, cursor := some 0, upc := some .s1 }

/-- R123: the entry function. -/
def Obligations.EntryStates : Prop :=
  ∀ c : Nat, c ≤ 65536 →
    entry c = if c = 65536 then .s11 else if c % 1024 = 0 then .s1 else if c % 256 = 0 then .s2 else .s5

/-- R124: the micro-program, one step a row. -/
def Obligations.MicroProgramRows : Prop :=
  ∀ (s : State) (c : Nat), s.Running → s.pending = [] → s.choices = [] → s.cursor = some c → c < 65536 →
    let a : Addr := BitVec.ofNat 16 c
    let wc (k : Control) := s.writeCtrl (ctrlByte s.params k)
    let wd (b : Byte) : State := { s with dr := some b, trace := s.trace ++ [.wd b] }
    (s.upc = some .s0 → step s = .next { wc .idle with phase := .enabled, cursor := some 0, upc := some .s1 }) ∧
    (s.upc = some .s1 → step s = .next { s with
      trace := s.trace ++ [.progress (c / 1024)], upc := some (if c % 256 = 0 then .s2 else .s5) }) ∧
    (s.upc = some .s2 → step s = .next { wd (a.extractLsb' 8 8) with upc := some .s3 }) ∧
    (s.upc = some .s3 → step s = .next { wc .highOpen with upc := some .s4 }) ∧
    (s.upc = some .s4 → step s = .next { wc .idle with upc := some .s5 }) ∧
    (s.upc = some .s5 → step s = .next { wd (a.extractLsb' 0 8) with upc := some .s6 }) ∧
    (s.upc = some .s6 → step s = .next { wc .lowOpen with upc := some .s7 }) ∧
    (s.upc = some .s7 → step s = .next { wc .idle with upc := some .s8 }) ∧
    (s.upc = some .s8 → step s = .next { wd (s.readBuf (c % s.bufSize)) with upc := some .s9 }) ∧
    (s.upc = some .s9 → step s = .next { wc .strobe with upc := some .s10 }) ∧
    (s.upc = some .s10 → step s = .next { wc .idle with cursor := some (c + 1), upc := some (entry (c + 1)) }) ∧
    (∀ x, s.upc = some .s11 → step { s with cursor := x } =
      .next { wc .off with phase := .idle, cursor := none, upc := some .s12 }) ∧
    (∀ x, s.upc = some .s12 → step { s with cursor := x } =
      .next { s with cursor := x, trace := s.trace ++ [.complete], upc := none })

/-- R126: at the device write of cycle `c` both latches hold the bytes of `c`, and the write goes to the cell of `c`. -/
def Obligations.TransferAddressesItsCycle : Prop :=
  ∀ (s : State) (c : Nat), s.Inv → s.Running → s.upc = some .s10 → s.cursor = some c → s.writeFails = false →
    s.choices.head? = none →
    c < 65536 ∧ s.latHi = .held (BitVec.ofNat 8 (c / 256)) ∧ s.latLo = .held (BitVec.ofNat 8 c) ∧
    ∃ t, step s = .next t ∧ t.dev = s.devWritten (BitVec.ofNat 16 c) (s.readBuf (c % s.bufSize)) ∧
      (newEvents s t).filterMap Event.knownWrite = [(BitVec.ofNat 16 c, s.readBuf (c % s.bufSize))]

/-- R127: a TRANSFER that ends well has written every cell: `DEV[j] = BUF[(j + 65536 - 2^k) mod N]`, which for 16 address lines is
`DEV[a] = BUF[a mod N]`; and what it leaves in the registers. It takes 394,051 steps (R128). -/
def Obligations.TransferProgramsWholeDevice : Prop :=
  ∀ (s : State) (rest : List HostMove), s.Inv → s.Ready → s.phase = .idle → s.params.deviceWrite = .overwrite →
    s.hostMoves = .command 0x700000 :: rest →
    ∃ t, steps 394051 s = .next t ∧
      (∀ j, j < 2 ^ s.params.devAddrBits →
        t.devKnown j = some (s.readBuf ((j + 65536 - 2 ^ s.params.devAddrBits) % s.bufSize))) ∧
      t.cr = some (ctrlByte s.params .off) ∧ t.dr = some (s.readBuf (s.bufSize - 1)) ∧
      t.latHi = .held 0xFF ∧ t.latLo = .held 0xFF ∧ t.phase = .idle ∧ t.cursor = none ∧ t.upc = none ∧ t.pending = [] ∧
      t.fault = none ∧ t.aborted = false ∧ t.hostMoves = rest

/-- R128: the events of one whole TRANSFER, whatever the target's write effect: the device writes are one per address in increasing
order, the high captures are the 256 high bytes in order, and the counts are as given. -/
def Obligations.TransferEventCounts : Prop :=
  ∀ (s : State) (rest : List HostMove), s.Inv → s.Ready → s.phase = .idle → s.hostMoves = .command 0x700000 :: rest →
    ∃ t new, steps 394051 s = .next t ∧ t.trace = s.trace ++ new ∧
      new.filterMap Event.knownWrite =
        (List.range 65536).map (fun c => (BitVec.ofNat 16 c, s.readBuf (c % s.bufSize))) ∧
      new.filterMap Event.knownHigh = (List.range 256).map (BitVec.ofNat 8) ∧
      new.filterMap Event.knownLow = (List.range 65536).map (BitVec.ofNat 8) ∧
      new.filterMap Event.progressValue = List.range 64 ∧
      new.countP Event.isWd = 131328 ∧ new.countP Event.isWc = 262658 ∧ new.countP (· == .complete) = 1

/-- R129: the cursor's arithmetic never overflows. -/
def Obligations.CursorStaysInRange : Prop :=
  ∀ (s : State) (c : Nat), s.Inv → s.Running → s.cursor = some c →
    c ≤ 65536 ∧ (c = 65536 → s.upc = some .s11) ∧ c % s.bufSize ≤ s.bufSize - 1 ∧
    (s.upc ≠ some .s11 → c / 1024 ≤ 63 ∧ (BitVec.ofNat 16 c).toNat = c ∧
      (highByte (cursorAddr c)).toNat = c / 256 % 256 ∧ (lowByte (cursorAddr c)).toNat = c % 256)

/-- R42: tiling: for a power of two `N`, `a mod N = a & (N - 1)`, and the addresses `a` and `a + N` receive the same byte. -/
def Obligations.BufferIsTiled : Prop :=
  ∀ (s : State) (a : Addr), bufSizeOk s.bufSize = true →
    bufIndex a s.bufSize = a.toNat &&& (s.bufSize - 1) ∧ bufIndex a s.bufSize < s.bufSize ∧
    s.bufByte (a + BitVec.ofNat 16 s.bufSize) = s.bufByte a

/-! ### Admission -/

/-- R141, R147: the faults of admission, in order: the port, then the phase, then the latches. The state keeps everything but the
fault record and the word being admitted. -/
def Obligations.AdmissionFaults : Prop :=
  ∀ (s : State) (b : Byte) (a : Addr),
    (∀ i ∈ [Instr.enable, .disable, .latchLow b, .latchHigh b, .strobe b, .cycle a, .transfer],
      s.portOpen = false → exec i s = .next (s.faulted i .portNotOpen)) ∧
    (∀ i ∈ [Instr.disable, .latchLow b, .latchHigh b, .strobe b, .cycle a],
      s.portOpen = true → s.phase = .idle → exec i s = .next (s.faulted i .notEnabled)) ∧
    (∀ i ∈ [Instr.enable, .transfer],
      s.portOpen = true → s.phase = .enabled → exec i s = .next (s.faulted i .alreadyEnabled)) ∧
    (s.InSession → ((∀ h, s.latHi ≠ .held h) ∨ ∀ l, s.latLo ≠ .held l) →
      exec (.strobe b) s = .next (s.faulted (.strobe b) (.unlatchedAddress s.latHi s.latLo))) ∧
    (s.InSession → a.toNat % 256 ≠ 0 → (∀ h, s.latHi ≠ .held h) →
      exec (.cycle a) s = .next (s.faulted (.cycle a) (.unlatchedAddress s.latHi s.latLo)))

/-! ### Invariants and whole-machine rules -/

/-- The invariant of the machine holds at reset (R36). -/
def Obligations.InvariantAtReset : Prop := State.reset.Inv

/-- Every step keeps the invariant: the control lines follow the transitions of R63, the cursor its range (R29), the latches the
address of the cycle (R126), `DEV` its canonical form. -/
def Obligations.InvariantKeptByStep : Prop :=
  ∀ s t : State, s.Inv → step s = .next t → t.Inv

/-- Every step keeps the target memory in canonical form, from any state (R33, R49). -/
def Obligations.DeviceMemoryStaysCanonical : Prop :=
  ∀ s t : State, s.devWf → step s = .next t → t.devWf

/-- R30, R38: no step changes the open parameters, the buffer or its size. -/
def Obligations.InputsNeverChange : Prop :=
  ∀ s t : State, step s = .next t → t.params = s.params ∧ t.buf = s.buf ∧ t.bufSize = s.bufSize

/-- R31: the trace only grows, but for a port open, which starts a new one (R36). -/
def Obligations.TraceOnlyGrows : Prop :=
  ∀ s t : State, step s = .next t → (s.Between ∧ s.hostMoves.head? = some (.portOpen true)) ∨ ∃ new, t.trace = s.trace ++ new

/-- R93: in a session the lines are `C_IDLE` between two commands, and every step that stays in it leaves `PROGRAM` asserted. -/
def Obligations.SessionKeepsProgramAsserted : Prop :=
  ∀ s : State, s.Inv → s.Running → s.InSession →
    (s.Between → s.lines = some 0x7) ∧
    ∀ t, step s = .next t → t.InSession → t.fault = none → t.aborted = false →
      ∃ l, t.lines = some l ∧ l.getLsbD 0 = true

/-- R63: inside a session every control write that completes changes at most one line, and every vector on the lines is one of the
five named states. -/
def Obligations.OneLineChangesAtATime : Prop :=
  ∀ s t : State, s.Inv → s.Running → s.InSession → step s = .next t → t.fault = none → t.aborted = false → t.portOpen = true →
    ¬ (s.Between ∧ s.hostMoves.head? = some (.portOpen true)) →
    ∃ c d : Control, s.holds c ∧ t.holds d ∧ c.lines ^^^ d.lines ∈ [(0x0 : Lines), 0x1, 0x2, 0x4, 0x8]

/-- R48: inside a session no device write has an unknown address or byte; only a failed write may cause one (R146). -/
def Obligations.NoUnknownWriteInSession : Prop :=
  ∀ s t : State, s.Inv → s.Running → s.InSession → s.writeFails = false → step s = .next t →
    (newEvents s t).filter Event.isUnknownWrite = []

/-- R142, R126: a command in execution never faults when port writes cannot fail. -/
def Obligations.AdmittedCommandNeverFaults : Prop :=
  ∀ s : State, s.Inv → s.Running → s.params.portWriteFallible = false → ¬ s.Between →
    ∃ t, step s = .next t ∧ t.fault = none

/-- R27, R161: the block writes the port only while it is open: with the port closed, a step that is neither a port open nor an abort
leaves `DR`, `CR`, the lines, both latches, every cell of the target and the trace as they were. -/
def Obligations.ClosedPortIsNotTouched : Prop :=
  ∀ s t : State, s.Inv → s.portOpen = false → s.choices.head? ≠ some .abort → s.hostMoves.head? ≠ some (.portOpen true) →
    step s = .next t →
    t.dr = s.dr ∧ t.cr = s.cr ∧ t.lines = s.lines ∧ t.latLo = s.latLo ∧ t.latHi = s.latHi ∧ t.dev = s.dev ∧
    (∀ cell, t.devCell cell = s.devCell cell) ∧ t.trace = s.trace ∧ t.portOpen = false

/-- R26: only ENABLE, DISABLE, TRANSFER and a port open change the phase. -/
def Obligations.OnlySessionCommandsChangePhase : Prop :=
  ∀ s t : State, step s = .next t → t.phase ≠ s.phase →
    (∃ u, s.upc = some u ∧ (u = .s0 ∨ u = .s11)) ∨
    (s.Between ∧ ∃ m, s.hostMoves.head? = some m ∧
      (m = .portOpen true ∨ m = .command 0x100000 ∨ m = .command 0x200000 ∨ m = .command 0x700000))

/-- R33, R112, R125: nothing reads `DEV` or the trace back: two states that differ only there take the same step, up to them. -/
def Obligations.DeviceAndTraceAreNeverRead : Prop :=
  ∀ (s : State) (m : Memory) (e : Nat) (tr : List Event),
    match step s, step { s with dev := m, devEpoch := e, trace := tr } with
    | .next t, .next t' => t = { t' with dev := t.dev, devEpoch := t.devEpoch, trace := t.trace }
    | .fault r, .fault r' => r = r'
    | .refused r, .refused r' => r = r'
    | _, _ => False

/-! ### Frames -/

/-- The frame of the first step of the data commands, LATCH_LOW, LATCH_HIGH, STROBE and CYCLE (R83, R100, R101, R110, R120), which is
what `exec` of one is: it changes only `DR`, `pending`, the trace, the word and the fault record; every cell of the target is
unchanged. The whole commands, STROBE's and CYCLE's device write with them, are LatchLowRuns to CycleRuns. -/
def Obligations.DataCommandFrame : Prop :=
  ∀ (i : Instr) (b : Byte) (a : Addr) (s t : State), i ∈ [Instr.latchLow b, .latchHigh b, .strobe b, .cycle a] →
    exec i s = .next t →
    t = { s with dr := t.dr, pending := t.pending, trace := t.trace, word := t.word, fault := t.fault } ∧
    ∀ cell, t.devKnown cell = s.devKnown cell

/-- The frame of the first step of the session commands (R83, R90, R91, R122), which is the whole of ENABLE and DISABLE and S0 of
TRANSFER: it leaves `DR`, the port, the inputs and the host's moves; where it records a fault, of admission or of a failed write, the
phase and the cursor stay too; every cell is unchanged but the one its control write stores to. -/
def Obligations.SessionCommandFrame : Prop :=
  ∀ (i : Instr) (c : Control) (s t : State), i = .enable ∧ c = .idle ∨ i = .disable ∧ c = .off ∨ i = .transfer ∧ c = .idle →
    exec i s = .next t →
    t = { s with
      cr := t.cr, latLo := t.latLo, latHi := t.latHi, dev := t.dev, draws := t.draws, trace := t.trace, phase := t.phase
      pending := t.pending, upc := t.upc, cursor := t.cursor, word := t.word, fault := t.fault } ∧
    (t.fault ≠ s.fault → t.phase = s.phase ∧ t.cursor = s.cursor) ∧
    ∀ cell, ctrlStoredCell (ctrlByte s.params c) s ≠ some cell → t.devKnown cell = s.devKnown cell

/-- The frame of the micro-ops (R80, R81, R146): WR_DATA changes only `DR`, the trace and, if it fails, the fault record, and no cell;
WR_CTRL leaves `DR`, the phase and the sequencer, and every cell but the one it stores to. -/
def Obligations.MicroOpFrame : Prop :=
  ∀ (v : Byte) (s t : State),
    (exec (.wrData v) s = .next t →
      t = { s with dr := t.dr, trace := t.trace, fault := t.fault } ∧ ∀ cell, t.devKnown cell = s.devKnown cell) ∧
    (exec (.wrCtrl v) s = .next t →
      t = { s with
        cr := t.cr, latLo := t.latLo, latHi := t.latHi, dev := t.dev, draws := t.draws, trace := t.trace, fault := t.fault } ∧
      ∀ cell, ctrlStoredCell v s ≠ some cell → t.devKnown cell = s.devKnown cell)

/-! ### The host -/

/-- R166: the size rule: an argument is accepted exactly when it is a non-empty string of decimal digits whose value is one of
1, 2, 4, …, 65536; up to 64 it counts kilobytes. The size is the buffer's, and the host exits with status 1 on a rejected one. -/
def Obligations.SizeRuleAccepts : Prop :=
  ∀ arg : List Char,
    (∀ v, parseDecimal arg = some v ↔
      arg ≠ [] ∧ (∀ c ∈ arg, 48 ≤ c.toNat ∧ c.toNat ≤ 57) ∧ v = arg.foldl (fun n c => 10 * n + (c.toNat - 48)) 0) ∧
    (∀ n, sizeRule arg = some n ↔
      ∃ v, parseDecimal arg = some v ∧ (∃ j, j ≤ 16 ∧ v = 2 ^ j) ∧ n = if v ≤ 64 then v * 1024 else v) ∧
    ∀ inv : Invocation, inv.size = some arg →
      (sizeRule arg = none → (boot inv).hostExit = some .failure) ∧
      ∀ n bytes, sizeRule arg = some n → inv.file = .contents bytes → (boot inv).bufSize = n

/-- R167, R168: the buffer is the file's first `N` bytes followed by 0xFF. -/
def Obligations.BufferFromFile : Prop :=
  ∀ (n : Nat) (file : List Byte) (s : State) (i : Nat), s.buf = buildBuffer n file → s.bufSize = n → i < n →
    s.readBuf i = if i < min file.length n then file.getD i 0 else 0xFF

/-- R164, R143, R161, R171: the boot order, on the invocation. A missing filename, a rejected size or an unreadable file ends the process
with status 1 before any port activity; with a file and an accepted size (or none: the default) `BUF` is complete before the port is
opened; an open that fails ends the process with status 1; after one that succeeds TRANSFER, the close and the exit with status 0
follow; and the exit ends the process with its status. The order is held in `hostMoves` and the exit in `hostExit` (log entries 1, 16
and 17). -/
def Obligations.BootOrder : Prop :=
  (∀ inv : Invocation,
    (inv.file = .missing ∨ inv.file = .unreadable ∨ ∃ arg, inv.size = some arg ∧ sizeRule arg = none) →
    (boot inv).hostExit = some .failure ∧ (boot inv).portOpen = false ∧ (boot inv).trace = [] ∧
    step (boot inv) = .refused .hostExited) ∧
  (∀ (inv : Invocation) (bytes : List Byte) (n : Nat), inv.file = .contents bytes →
    (inv.size = none ∧ n = 65536 ∨ ∃ arg, inv.size = some arg ∧ sizeRule arg = some n) →
    (boot inv).portOpen = false ∧ (boot inv).hostExit = none ∧ (boot inv).buf = buildBuffer n bytes ∧ (boot inv).bufSize = n ∧
    (boot inv).params.portId = inv.port ∧
    (inv.portOpens = false →
      ∃ t, step (boot inv) = .next t ∧ t.hostExit = some .failure ∧ t.portOpen = false ∧ t.trace = []) ∧
    (inv.portOpens = true →
      ∃ t, step (boot inv) = .next t ∧ t.Inv ∧ t.Ready ∧ t.phase = .idle ∧ t.buf = buildBuffer n bytes ∧ t.bufSize = n ∧
        t.hostMoves = [.command 0x700000, .portClose, .exit .success])) ∧
  ∀ (s : State) (status : ExitStatus) (rest : List HostMove), s.Running → s.Between → s.choices = [] →
    s.hostMoves = .exit status :: rest →
    step s = .next { s with hostMoves := rest, hostExit := some status } ∧
    step { s with hostMoves := rest, hostExit := some status } = .refused .hostExited
end

