-- ==== Sys2Proof/Laws/State.lean ====
section
/-! SUPPORT. The fields of a state after each basic update: one lemma per field and update, so that no later proof unfolds a record
update. -/

namespace Sys2Proof.Machine

variable (s : State)

@[simp] theorem State.emit_params (e : Event) : (s.emit e).params = s.params := rfl
@[simp] theorem State.emit_dr (e : Event) : (s.emit e).dr = s.dr := rfl
@[simp] theorem State.emit_cr (e : Event) : (s.emit e).cr = s.cr := rfl
@[simp] theorem State.emit_latLo (e : Event) : (s.emit e).latLo = s.latLo := rfl
@[simp] theorem State.emit_latHi (e : Event) : (s.emit e).latHi = s.latHi := rfl
@[simp] theorem State.emit_dev (e : Event) : (s.emit e).dev = s.dev := rfl
@[simp] theorem State.emit_portOpen (e : Event) : (s.emit e).portOpen = s.portOpen := rfl
@[simp] theorem State.emit_phase (e : Event) : (s.emit e).phase = s.phase := rfl
@[simp] theorem State.emit_pending (e : Event) : (s.emit e).pending = s.pending := rfl
@[simp] theorem State.emit_upc (e : Event) : (s.emit e).upc = s.upc := rfl
@[simp] theorem State.emit_cursor (e : Event) : (s.emit e).cursor = s.cursor := rfl
@[simp] theorem State.emit_buf (e : Event) : (s.emit e).buf = s.buf := rfl
@[simp] theorem State.emit_bufSize (e : Event) : (s.emit e).bufSize = s.bufSize := rfl
@[simp] theorem State.emit_trace (e : Event) : (s.emit e).trace = s.trace ++ [e] := rfl
@[simp] theorem State.emit_fault (e : Event) : (s.emit e).fault = s.fault := rfl
@[simp] theorem State.emit_aborted (e : Event) : (s.emit e).aborted = s.aborted := rfl
@[simp] theorem State.emit_word (e : Event) : (s.emit e).word = s.word := rfl
@[simp] theorem State.emit_hostMoves (e : Event) : (s.emit e).hostMoves = s.hostMoves := rfl
@[simp] theorem State.emit_hostExit (e : Event) : (s.emit e).hostExit = s.hostExit := rfl
@[simp] theorem State.emit_choices (e : Event) : (s.emit e).choices = s.choices := rfl
@[simp] theorem State.emit_draws (e : Event) : (s.emit e).draws = s.draws := rfl
@[simp] theorem State.emit_devEpoch (e : Event) : (s.emit e).devEpoch = s.devEpoch := rfl

@[simp] theorem State.raise_params (f : Fault) : (s.raise f).params = s.params := rfl
@[simp] theorem State.raise_dr (f : Fault) : (s.raise f).dr = s.dr := rfl
@[simp] theorem State.raise_cr (f : Fault) : (s.raise f).cr = s.cr := rfl
@[simp] theorem State.raise_latLo (f : Fault) : (s.raise f).latLo = s.latLo := rfl
@[simp] theorem State.raise_latHi (f : Fault) : (s.raise f).latHi = s.latHi := rfl
@[simp] theorem State.raise_dev (f : Fault) : (s.raise f).dev = s.dev := rfl
@[simp] theorem State.raise_portOpen (f : Fault) : (s.raise f).portOpen = s.portOpen := rfl
@[simp] theorem State.raise_phase (f : Fault) : (s.raise f).phase = s.phase := rfl
@[simp] theorem State.raise_pending (f : Fault) : (s.raise f).pending = s.pending := rfl
@[simp] theorem State.raise_upc (f : Fault) : (s.raise f).upc = s.upc := rfl
@[simp] theorem State.raise_cursor (f : Fault) : (s.raise f).cursor = s.cursor := rfl
@[simp] theorem State.raise_buf (f : Fault) : (s.raise f).buf = s.buf := rfl
@[simp] theorem State.raise_bufSize (f : Fault) : (s.raise f).bufSize = s.bufSize := rfl
@[simp] theorem State.raise_trace (f : Fault) : (s.raise f).trace = s.trace := rfl
@[simp] theorem State.raise_fault (f : Fault) : (s.raise f).fault = some { reason := f, word := s.word, pending := s.pending, upc := s.upc } := rfl
@[simp] theorem State.raise_aborted (f : Fault) : (s.raise f).aborted = s.aborted := rfl
@[simp] theorem State.raise_word (f : Fault) : (s.raise f).word = s.word := rfl
@[simp] theorem State.raise_hostMoves (f : Fault) : (s.raise f).hostMoves = s.hostMoves := rfl
@[simp] theorem State.raise_hostExit (f : Fault) : (s.raise f).hostExit = s.hostExit := rfl
@[simp] theorem State.raise_choices (f : Fault) : (s.raise f).choices = s.choices := rfl
@[simp] theorem State.raise_draws (f : Fault) : (s.raise f).draws = s.draws := rfl
@[simp] theorem State.raise_devEpoch (f : Fault) : (s.raise f).devEpoch = s.devEpoch := rfl

@[simp] theorem State.writeData_params (v : Byte) : (s.writeData v).params = s.params := rfl
@[simp] theorem State.writeData_dr (v : Byte) : (s.writeData v).dr = some v := rfl
@[simp] theorem State.writeData_cr (v : Byte) : (s.writeData v).cr = s.cr := rfl
@[simp] theorem State.writeData_latLo (v : Byte) : (s.writeData v).latLo = s.latLo := rfl
@[simp] theorem State.writeData_latHi (v : Byte) : (s.writeData v).latHi = s.latHi := rfl
@[simp] theorem State.writeData_dev (v : Byte) : (s.writeData v).dev = s.dev := rfl
@[simp] theorem State.writeData_portOpen (v : Byte) : (s.writeData v).portOpen = s.portOpen := rfl
@[simp] theorem State.writeData_phase (v : Byte) : (s.writeData v).phase = s.phase := rfl
@[simp] theorem State.writeData_pending (v : Byte) : (s.writeData v).pending = s.pending := rfl
@[simp] theorem State.writeData_upc (v : Byte) : (s.writeData v).upc = s.upc := rfl
@[simp] theorem State.writeData_cursor (v : Byte) : (s.writeData v).cursor = s.cursor := rfl
@[simp] theorem State.writeData_buf (v : Byte) : (s.writeData v).buf = s.buf := rfl
@[simp] theorem State.writeData_bufSize (v : Byte) : (s.writeData v).bufSize = s.bufSize := rfl
@[simp] theorem State.writeData_trace (v : Byte) : (s.writeData v).trace = s.trace ++ [.wd v] := rfl
@[simp] theorem State.writeData_fault (v : Byte) : (s.writeData v).fault = s.fault := rfl
@[simp] theorem State.writeData_aborted (v : Byte) : (s.writeData v).aborted = s.aborted := rfl
@[simp] theorem State.writeData_word (v : Byte) : (s.writeData v).word = s.word := rfl
@[simp] theorem State.writeData_hostMoves (v : Byte) : (s.writeData v).hostMoves = s.hostMoves := rfl
@[simp] theorem State.writeData_hostExit (v : Byte) : (s.writeData v).hostExit = s.hostExit := rfl
@[simp] theorem State.writeData_choices (v : Byte) : (s.writeData v).choices = s.choices := rfl
@[simp] theorem State.writeData_draws (v : Byte) : (s.writeData v).draws = s.draws := rfl
@[simp] theorem State.writeData_devEpoch (v : Byte) : (s.writeData v).devEpoch = s.devEpoch := rfl

@[simp] theorem State.storeCtrl_params (v : Byte) : (s.storeCtrl v).params = s.params := rfl
@[simp] theorem State.storeCtrl_dr (v : Byte) : (s.storeCtrl v).dr = s.dr := rfl
@[simp] theorem State.storeCtrl_cr (v : Byte) : (s.storeCtrl v).cr = some v := rfl
@[simp] theorem State.storeCtrl_latLo (v : Byte) : (s.storeCtrl v).latLo = s.latLo := rfl
@[simp] theorem State.storeCtrl_latHi (v : Byte) : (s.storeCtrl v).latHi = s.latHi := rfl
@[simp] theorem State.storeCtrl_dev (v : Byte) : (s.storeCtrl v).dev = s.dev := rfl
@[simp] theorem State.storeCtrl_portOpen (v : Byte) : (s.storeCtrl v).portOpen = s.portOpen := rfl
@[simp] theorem State.storeCtrl_phase (v : Byte) : (s.storeCtrl v).phase = s.phase := rfl
@[simp] theorem State.storeCtrl_pending (v : Byte) : (s.storeCtrl v).pending = s.pending := rfl
@[simp] theorem State.storeCtrl_upc (v : Byte) : (s.storeCtrl v).upc = s.upc := rfl
@[simp] theorem State.storeCtrl_cursor (v : Byte) : (s.storeCtrl v).cursor = s.cursor := rfl
@[simp] theorem State.storeCtrl_buf (v : Byte) : (s.storeCtrl v).buf = s.buf := rfl
@[simp] theorem State.storeCtrl_bufSize (v : Byte) : (s.storeCtrl v).bufSize = s.bufSize := rfl
@[simp] theorem State.storeCtrl_trace (v : Byte) : (s.storeCtrl v).trace = s.trace ++ [.wc v] := rfl
@[simp] theorem State.storeCtrl_fault (v : Byte) : (s.storeCtrl v).fault = s.fault := rfl
@[simp] theorem State.storeCtrl_aborted (v : Byte) : (s.storeCtrl v).aborted = s.aborted := rfl
@[simp] theorem State.storeCtrl_word (v : Byte) : (s.storeCtrl v).word = s.word := rfl
@[simp] theorem State.storeCtrl_hostMoves (v : Byte) : (s.storeCtrl v).hostMoves = s.hostMoves := rfl
@[simp] theorem State.storeCtrl_hostExit (v : Byte) : (s.storeCtrl v).hostExit = s.hostExit := rfl
@[simp] theorem State.storeCtrl_choices (v : Byte) : (s.storeCtrl v).choices = s.choices := rfl
@[simp] theorem State.storeCtrl_draws (v : Byte) : (s.storeCtrl v).draws = s.draws := rfl
@[simp] theorem State.storeCtrl_devEpoch (v : Byte) : (s.storeCtrl v).devEpoch = s.devEpoch := rfl

@[simp] theorem State.lowReact_params (o : Option Lines) (n : Lines) : (s.lowReact o n).params = s.params := rfl
@[simp] theorem State.lowReact_dr (o : Option Lines) (n : Lines) : (s.lowReact o n).dr = s.dr := rfl
@[simp] theorem State.lowReact_cr (o : Option Lines) (n : Lines) : (s.lowReact o n).cr = s.cr := rfl
@[simp] theorem State.lowReact_latLo (o : Option Lines) (n : Lines) : (s.lowReact o n).latLo = (latchReaction .addrLowInv o n s.dr).latch s.latLo := rfl
@[simp] theorem State.lowReact_latHi (o : Option Lines) (n : Lines) : (s.lowReact o n).latHi = s.latHi := rfl
@[simp] theorem State.lowReact_dev (o : Option Lines) (n : Lines) : (s.lowReact o n).dev = s.dev := rfl
@[simp] theorem State.lowReact_portOpen (o : Option Lines) (n : Lines) : (s.lowReact o n).portOpen = s.portOpen := rfl
@[simp] theorem State.lowReact_phase (o : Option Lines) (n : Lines) : (s.lowReact o n).phase = s.phase := rfl
@[simp] theorem State.lowReact_pending (o : Option Lines) (n : Lines) : (s.lowReact o n).pending = s.pending := rfl
@[simp] theorem State.lowReact_upc (o : Option Lines) (n : Lines) : (s.lowReact o n).upc = s.upc := rfl
@[simp] theorem State.lowReact_cursor (o : Option Lines) (n : Lines) : (s.lowReact o n).cursor = s.cursor := rfl
@[simp] theorem State.lowReact_buf (o : Option Lines) (n : Lines) : (s.lowReact o n).buf = s.buf := rfl
@[simp] theorem State.lowReact_bufSize (o : Option Lines) (n : Lines) : (s.lowReact o n).bufSize = s.bufSize := rfl
@[simp] theorem State.lowReact_trace (o : Option Lines) (n : Lines) : (s.lowReact o n).trace = s.trace ++ (latchReaction .addrLowInv o n s.dr).events .capLo := rfl
@[simp] theorem State.lowReact_fault (o : Option Lines) (n : Lines) : (s.lowReact o n).fault = s.fault := rfl
@[simp] theorem State.lowReact_aborted (o : Option Lines) (n : Lines) : (s.lowReact o n).aborted = s.aborted := rfl
@[simp] theorem State.lowReact_word (o : Option Lines) (n : Lines) : (s.lowReact o n).word = s.word := rfl
@[simp] theorem State.lowReact_hostMoves (o : Option Lines) (n : Lines) : (s.lowReact o n).hostMoves = s.hostMoves := rfl
@[simp] theorem State.lowReact_hostExit (o : Option Lines) (n : Lines) : (s.lowReact o n).hostExit = s.hostExit := rfl
@[simp] theorem State.lowReact_choices (o : Option Lines) (n : Lines) : (s.lowReact o n).choices = s.choices := rfl
@[simp] theorem State.lowReact_draws (o : Option Lines) (n : Lines) : (s.lowReact o n).draws = s.draws := rfl
@[simp] theorem State.lowReact_devEpoch (o : Option Lines) (n : Lines) : (s.lowReact o n).devEpoch = s.devEpoch := rfl

@[simp] theorem State.highReact_params (o : Option Lines) (n : Lines) : (s.highReact o n).params = s.params := rfl
@[simp] theorem State.highReact_dr (o : Option Lines) (n : Lines) : (s.highReact o n).dr = s.dr := rfl
@[simp] theorem State.highReact_cr (o : Option Lines) (n : Lines) : (s.highReact o n).cr = s.cr := rfl
@[simp] theorem State.highReact_latLo (o : Option Lines) (n : Lines) : (s.highReact o n).latLo = s.latLo := rfl
@[simp] theorem State.highReact_latHi (o : Option Lines) (n : Lines) : (s.highReact o n).latHi = (latchReaction .addrHighInv o n s.dr).latch s.latHi := rfl
@[simp] theorem State.highReact_dev (o : Option Lines) (n : Lines) : (s.highReact o n).dev = s.dev := rfl
@[simp] theorem State.highReact_portOpen (o : Option Lines) (n : Lines) : (s.highReact o n).portOpen = s.portOpen := rfl
@[simp] theorem State.highReact_phase (o : Option Lines) (n : Lines) : (s.highReact o n).phase = s.phase := rfl
@[simp] theorem State.highReact_pending (o : Option Lines) (n : Lines) : (s.highReact o n).pending = s.pending := rfl
@[simp] theorem State.highReact_upc (o : Option Lines) (n : Lines) : (s.highReact o n).upc = s.upc := rfl
@[simp] theorem State.highReact_cursor (o : Option Lines) (n : Lines) : (s.highReact o n).cursor = s.cursor := rfl
@[simp] theorem State.highReact_buf (o : Option Lines) (n : Lines) : (s.highReact o n).buf = s.buf := rfl
@[simp] theorem State.highReact_bufSize (o : Option Lines) (n : Lines) : (s.highReact o n).bufSize = s.bufSize := rfl
@[simp] theorem State.highReact_trace (o : Option Lines) (n : Lines) : (s.highReact o n).trace = s.trace ++ (latchReaction .addrHighInv o n s.dr).events .capHi := rfl
@[simp] theorem State.highReact_fault (o : Option Lines) (n : Lines) : (s.highReact o n).fault = s.fault := rfl
@[simp] theorem State.highReact_aborted (o : Option Lines) (n : Lines) : (s.highReact o n).aborted = s.aborted := rfl
@[simp] theorem State.highReact_word (o : Option Lines) (n : Lines) : (s.highReact o n).word = s.word := rfl
@[simp] theorem State.highReact_hostMoves (o : Option Lines) (n : Lines) : (s.highReact o n).hostMoves = s.hostMoves := rfl
@[simp] theorem State.highReact_hostExit (o : Option Lines) (n : Lines) : (s.highReact o n).hostExit = s.hostExit := rfl
@[simp] theorem State.highReact_choices (o : Option Lines) (n : Lines) : (s.highReact o n).choices = s.choices := rfl
@[simp] theorem State.highReact_draws (o : Option Lines) (n : Lines) : (s.highReact o n).draws = s.draws := rfl
@[simp] theorem State.highReact_devEpoch (o : Option Lines) (n : Lines) : (s.highReact o n).devEpoch = s.devEpoch := rfl

@[simp] theorem State.spuriousWrite_params : (s.spuriousWrite).params = s.params := rfl
@[simp] theorem State.spuriousWrite_dr : (s.spuriousWrite).dr = s.dr := rfl
@[simp] theorem State.spuriousWrite_cr : (s.spuriousWrite).cr = s.cr := rfl
@[simp] theorem State.spuriousWrite_latLo : (s.spuriousWrite).latLo = s.latLo := rfl
@[simp] theorem State.spuriousWrite_latHi : (s.spuriousWrite).latHi = s.latHi := rfl
@[simp] theorem State.spuriousWrite_portOpen : (s.spuriousWrite).portOpen = s.portOpen := rfl
@[simp] theorem State.spuriousWrite_phase : (s.spuriousWrite).phase = s.phase := rfl
@[simp] theorem State.spuriousWrite_pending : (s.spuriousWrite).pending = s.pending := rfl
@[simp] theorem State.spuriousWrite_upc : (s.spuriousWrite).upc = s.upc := rfl
@[simp] theorem State.spuriousWrite_cursor : (s.spuriousWrite).cursor = s.cursor := rfl
@[simp] theorem State.spuriousWrite_buf : (s.spuriousWrite).buf = s.buf := rfl
@[simp] theorem State.spuriousWrite_bufSize : (s.spuriousWrite).bufSize = s.bufSize := rfl
@[simp] theorem State.spuriousWrite_fault : (s.spuriousWrite).fault = s.fault := rfl
@[simp] theorem State.spuriousWrite_aborted : (s.spuriousWrite).aborted = s.aborted := rfl
@[simp] theorem State.spuriousWrite_word : (s.spuriousWrite).word = s.word := rfl
@[simp] theorem State.spuriousWrite_hostMoves : (s.spuriousWrite).hostMoves = s.hostMoves := rfl
@[simp] theorem State.spuriousWrite_hostExit : (s.spuriousWrite).hostExit = s.hostExit := rfl
@[simp] theorem State.spuriousWrite_choices : (s.spuriousWrite).choices = s.choices := rfl
@[simp] theorem State.spuriousWrite_draws : (s.spuriousWrite).draws = s.draws + 1 := rfl
@[simp] theorem State.spuriousWrite_devEpoch : (s.spuriousWrite).devEpoch = s.devEpoch := rfl

@[simp] theorem State.abort_params : (s.abort).params = s.params := rfl
@[simp] theorem State.abort_dr : (s.abort).dr = none := rfl
@[simp] theorem State.abort_cr : (s.abort).cr = none := rfl
@[simp] theorem State.abort_latLo : (s.abort).latLo = .unknown := rfl
@[simp] theorem State.abort_latHi : (s.abort).latHi = .unknown := rfl
@[simp] theorem State.abort_dev : (s.abort).dev = [] := rfl
@[simp] theorem State.abort_portOpen : (s.abort).portOpen = s.portOpen := rfl
@[simp] theorem State.abort_phase : (s.abort).phase = s.phase := rfl
@[simp] theorem State.abort_pending : (s.abort).pending = s.pending := rfl
@[simp] theorem State.abort_upc : (s.abort).upc = s.upc := rfl
@[simp] theorem State.abort_cursor : (s.abort).cursor = s.cursor := rfl
@[simp] theorem State.abort_buf : (s.abort).buf = s.buf := rfl
@[simp] theorem State.abort_bufSize : (s.abort).bufSize = s.bufSize := rfl
@[simp] theorem State.abort_trace : (s.abort).trace = s.trace := rfl
@[simp] theorem State.abort_fault : (s.abort).fault = s.fault := rfl
@[simp] theorem State.abort_aborted : (s.abort).aborted = true := rfl
@[simp] theorem State.abort_word : (s.abort).word = s.word := rfl
@[simp] theorem State.abort_hostMoves : (s.abort).hostMoves = s.hostMoves := rfl
@[simp] theorem State.abort_hostExit : (s.abort).hostExit = s.hostExit := rfl
@[simp] theorem State.abort_choices : (s.abort).choices = s.choices := rfl
@[simp] theorem State.abort_draws : (s.abort).draws = s.draws + 1 := rfl
@[simp] theorem State.abort_devEpoch : (s.abort).devEpoch = s.draws := rfl

@[simp] theorem State.openPort_params : (s.openPort).params = s.params := rfl
@[simp] theorem State.openPort_dr : (s.openPort).dr = none := rfl
@[simp] theorem State.openPort_cr : (s.openPort).cr = none := rfl
@[simp] theorem State.openPort_latLo : (s.openPort).latLo = .unknown := rfl
@[simp] theorem State.openPort_latHi : (s.openPort).latHi = .unknown := rfl
@[simp] theorem State.openPort_dev : (s.openPort).dev = [] := rfl
@[simp] theorem State.openPort_portOpen : (s.openPort).portOpen = true := rfl
@[simp] theorem State.openPort_phase : (s.openPort).phase = .idle := rfl
@[simp] theorem State.openPort_pending : (s.openPort).pending = [] := rfl
@[simp] theorem State.openPort_upc : (s.openPort).upc = none := rfl
@[simp] theorem State.openPort_cursor : (s.openPort).cursor = none := rfl
@[simp] theorem State.openPort_buf : (s.openPort).buf = s.buf := rfl
@[simp] theorem State.openPort_bufSize : (s.openPort).bufSize = s.bufSize := rfl
@[simp] theorem State.openPort_trace : (s.openPort).trace = [] := rfl
@[simp] theorem State.openPort_fault : (s.openPort).fault = none := rfl
@[simp] theorem State.openPort_aborted : (s.openPort).aborted = false := rfl
@[simp] theorem State.openPort_word : (s.openPort).word = none := rfl
@[simp] theorem State.openPort_hostMoves : (s.openPort).hostMoves = s.hostMoves := rfl
@[simp] theorem State.openPort_hostExit : (s.openPort).hostExit = s.hostExit := rfl
@[simp] theorem State.openPort_choices : (s.openPort).choices = s.choices := rfl
@[simp] theorem State.openPort_draws : (s.openPort).draws = s.draws + 1 := rfl
@[simp] theorem State.openPort_devEpoch : (s.openPort).devEpoch = s.draws := rfl

@[simp] theorem State.closePort_params : (s.closePort).params = s.params := rfl
@[simp] theorem State.closePort_dr : (s.closePort).dr = none := rfl
@[simp] theorem State.closePort_cr : (s.closePort).cr = none := rfl
@[simp] theorem State.closePort_latLo : (s.closePort).latLo = s.latLo := rfl
@[simp] theorem State.closePort_latHi : (s.closePort).latHi = s.latHi := rfl
@[simp] theorem State.closePort_dev : (s.closePort).dev = s.dev := rfl
@[simp] theorem State.closePort_portOpen : (s.closePort).portOpen = false := rfl
@[simp] theorem State.closePort_phase : (s.closePort).phase = s.phase := rfl
@[simp] theorem State.closePort_pending : (s.closePort).pending = s.pending := rfl
@[simp] theorem State.closePort_upc : (s.closePort).upc = s.upc := rfl
@[simp] theorem State.closePort_cursor : (s.closePort).cursor = s.cursor := rfl
@[simp] theorem State.closePort_buf : (s.closePort).buf = s.buf := rfl
@[simp] theorem State.closePort_bufSize : (s.closePort).bufSize = s.bufSize := rfl
@[simp] theorem State.closePort_trace : (s.closePort).trace = s.trace := rfl
@[simp] theorem State.closePort_fault : (s.closePort).fault = s.fault := rfl
@[simp] theorem State.closePort_aborted : (s.closePort).aborted = s.aborted := rfl
@[simp] theorem State.closePort_word : (s.closePort).word = s.word := rfl
@[simp] theorem State.closePort_hostMoves : (s.closePort).hostMoves = s.hostMoves := rfl
@[simp] theorem State.closePort_hostExit : (s.closePort).hostExit = s.hostExit := rfl
@[simp] theorem State.closePort_choices : (s.closePort).choices = s.choices := rfl
@[simp] theorem State.closePort_draws : (s.closePort).draws = s.draws := rfl
@[simp] theorem State.closePort_devEpoch : (s.closePort).devEpoch = s.devEpoch := rfl

@[simp] theorem State.exitHost_params (x : ExitStatus) : (s.exitHost x).params = s.params := rfl
@[simp] theorem State.exitHost_dr (x : ExitStatus) : (s.exitHost x).dr = s.dr := rfl
@[simp] theorem State.exitHost_cr (x : ExitStatus) : (s.exitHost x).cr = s.cr := rfl
@[simp] theorem State.exitHost_latLo (x : ExitStatus) : (s.exitHost x).latLo = s.latLo := rfl
@[simp] theorem State.exitHost_latHi (x : ExitStatus) : (s.exitHost x).latHi = s.latHi := rfl
@[simp] theorem State.exitHost_dev (x : ExitStatus) : (s.exitHost x).dev = s.dev := rfl
@[simp] theorem State.exitHost_portOpen (x : ExitStatus) : (s.exitHost x).portOpen = s.portOpen := rfl
@[simp] theorem State.exitHost_phase (x : ExitStatus) : (s.exitHost x).phase = s.phase := rfl
@[simp] theorem State.exitHost_pending (x : ExitStatus) : (s.exitHost x).pending = s.pending := rfl
@[simp] theorem State.exitHost_upc (x : ExitStatus) : (s.exitHost x).upc = s.upc := rfl
@[simp] theorem State.exitHost_cursor (x : ExitStatus) : (s.exitHost x).cursor = s.cursor := rfl
@[simp] theorem State.exitHost_buf (x : ExitStatus) : (s.exitHost x).buf = s.buf := rfl
@[simp] theorem State.exitHost_bufSize (x : ExitStatus) : (s.exitHost x).bufSize = s.bufSize := rfl
@[simp] theorem State.exitHost_trace (x : ExitStatus) : (s.exitHost x).trace = s.trace := rfl
@[simp] theorem State.exitHost_fault (x : ExitStatus) : (s.exitHost x).fault = s.fault := rfl
@[simp] theorem State.exitHost_aborted (x : ExitStatus) : (s.exitHost x).aborted = s.aborted := rfl
@[simp] theorem State.exitHost_word (x : ExitStatus) : (s.exitHost x).word = s.word := rfl
@[simp] theorem State.exitHost_hostMoves (x : ExitStatus) : (s.exitHost x).hostMoves = s.hostMoves := rfl
@[simp] theorem State.exitHost_hostExit (x : ExitStatus) : (s.exitHost x).hostExit = some x := rfl
@[simp] theorem State.exitHost_choices (x : ExitStatus) : (s.exitHost x).choices = s.choices := rfl
@[simp] theorem State.exitHost_draws (x : ExitStatus) : (s.exitHost x).draws = s.draws := rfl
@[simp] theorem State.exitHost_devEpoch (x : ExitStatus) : (s.exitHost x).devEpoch = s.devEpoch := rfl

end Sys2Proof.Machine
end

