-- ==== Sys2Proof/Laws/Frame.lean ====
section
/-! SUPPORT. What the environment's reactions and a control write leave unchanged: one lemma per field (R46, R81). -/

namespace Sys2Proof.Machine

variable (s : State)

@[simp] theorem State.deviceReact_params (r : DeviceReaction) : (s.deviceReact r).params = s.params := by cases r <;> rfl
@[simp] theorem State.deviceReact_dr (r : DeviceReaction) : (s.deviceReact r).dr = s.dr := by cases r <;> rfl
@[simp] theorem State.deviceReact_cr (r : DeviceReaction) : (s.deviceReact r).cr = s.cr := by cases r <;> rfl
@[simp] theorem State.deviceReact_latLo (r : DeviceReaction) : (s.deviceReact r).latLo = s.latLo := by cases r <;> rfl
@[simp] theorem State.deviceReact_latHi (r : DeviceReaction) : (s.deviceReact r).latHi = s.latHi := by cases r <;> rfl
@[simp] theorem State.deviceReact_portOpen (r : DeviceReaction) : (s.deviceReact r).portOpen = s.portOpen := by cases r <;> rfl
@[simp] theorem State.deviceReact_phase (r : DeviceReaction) : (s.deviceReact r).phase = s.phase := by cases r <;> rfl
@[simp] theorem State.deviceReact_pending (r : DeviceReaction) : (s.deviceReact r).pending = s.pending := by cases r <;> rfl
@[simp] theorem State.deviceReact_upc (r : DeviceReaction) : (s.deviceReact r).upc = s.upc := by cases r <;> rfl
@[simp] theorem State.deviceReact_cursor (r : DeviceReaction) : (s.deviceReact r).cursor = s.cursor := by cases r <;> rfl
@[simp] theorem State.deviceReact_buf (r : DeviceReaction) : (s.deviceReact r).buf = s.buf := by cases r <;> rfl
@[simp] theorem State.deviceReact_bufSize (r : DeviceReaction) : (s.deviceReact r).bufSize = s.bufSize := by cases r <;> rfl
@[simp] theorem State.deviceReact_fault (r : DeviceReaction) : (s.deviceReact r).fault = s.fault := by cases r <;> rfl
@[simp] theorem State.deviceReact_aborted (r : DeviceReaction) : (s.deviceReact r).aborted = s.aborted := by cases r <;> rfl
@[simp] theorem State.deviceReact_word (r : DeviceReaction) : (s.deviceReact r).word = s.word := by cases r <;> rfl
@[simp] theorem State.deviceReact_hostMoves (r : DeviceReaction) : (s.deviceReact r).hostMoves = s.hostMoves := by cases r <;> rfl
@[simp] theorem State.deviceReact_hostExit (r : DeviceReaction) : (s.deviceReact r).hostExit = s.hostExit := by cases r <;> rfl
@[simp] theorem State.deviceReact_choices (r : DeviceReaction) : (s.deviceReact r).choices = s.choices := by cases r <;> rfl
@[simp] theorem State.deviceReact_devEpoch (r : DeviceReaction) : (s.deviceReact r).devEpoch = s.devEpoch := by cases r <;> rfl

@[simp] theorem State.react_params (o : Option Lines) (n : Lines) : (s.react o n).params = s.params := by simp [State.react]
@[simp] theorem State.react_dr (o : Option Lines) (n : Lines) : (s.react o n).dr = s.dr := by simp [State.react]
@[simp] theorem State.react_cr (o : Option Lines) (n : Lines) : (s.react o n).cr = s.cr := by simp [State.react]
@[simp] theorem State.react_portOpen (o : Option Lines) (n : Lines) : (s.react o n).portOpen = s.portOpen := by simp [State.react]
@[simp] theorem State.react_phase (o : Option Lines) (n : Lines) : (s.react o n).phase = s.phase := by simp [State.react]
@[simp] theorem State.react_pending (o : Option Lines) (n : Lines) : (s.react o n).pending = s.pending := by simp [State.react]
@[simp] theorem State.react_upc (o : Option Lines) (n : Lines) : (s.react o n).upc = s.upc := by simp [State.react]
@[simp] theorem State.react_cursor (o : Option Lines) (n : Lines) : (s.react o n).cursor = s.cursor := by simp [State.react]
@[simp] theorem State.react_buf (o : Option Lines) (n : Lines) : (s.react o n).buf = s.buf := by simp [State.react]
@[simp] theorem State.react_bufSize (o : Option Lines) (n : Lines) : (s.react o n).bufSize = s.bufSize := by simp [State.react]
@[simp] theorem State.react_fault (o : Option Lines) (n : Lines) : (s.react o n).fault = s.fault := by simp [State.react]
@[simp] theorem State.react_aborted (o : Option Lines) (n : Lines) : (s.react o n).aborted = s.aborted := by simp [State.react]
@[simp] theorem State.react_word (o : Option Lines) (n : Lines) : (s.react o n).word = s.word := by simp [State.react]
@[simp] theorem State.react_hostMoves (o : Option Lines) (n : Lines) : (s.react o n).hostMoves = s.hostMoves := by simp [State.react]
@[simp] theorem State.react_hostExit (o : Option Lines) (n : Lines) : (s.react o n).hostExit = s.hostExit := by simp [State.react]
@[simp] theorem State.react_choices (o : Option Lines) (n : Lines) : (s.react o n).choices = s.choices := by simp [State.react]
@[simp] theorem State.react_devEpoch (o : Option Lines) (n : Lines) : (s.react o n).devEpoch = s.devEpoch := by simp [State.react]

@[simp] theorem State.writeCtrl_cr (v : Byte) : (s.writeCtrl v).cr = some v := by
  unfold State.writeCtrl; split <;> [skip; split] <;> simp
@[simp] theorem State.writeCtrl_params (v : Byte) : (s.writeCtrl v).params = s.params := by
  unfold State.writeCtrl; split <;> [skip; split] <;> simp
@[simp] theorem State.writeCtrl_dr (v : Byte) : (s.writeCtrl v).dr = s.dr := by
  unfold State.writeCtrl; split <;> [skip; split] <;> simp
@[simp] theorem State.writeCtrl_portOpen (v : Byte) : (s.writeCtrl v).portOpen = s.portOpen := by
  unfold State.writeCtrl; split <;> [skip; split] <;> simp
@[simp] theorem State.writeCtrl_phase (v : Byte) : (s.writeCtrl v).phase = s.phase := by
  unfold State.writeCtrl; split <;> [skip; split] <;> simp
@[simp] theorem State.writeCtrl_pending (v : Byte) : (s.writeCtrl v).pending = s.pending := by
  unfold State.writeCtrl; split <;> [skip; split] <;> simp
@[simp] theorem State.writeCtrl_upc (v : Byte) : (s.writeCtrl v).upc = s.upc := by
  unfold State.writeCtrl; split <;> [skip; split] <;> simp
@[simp] theorem State.writeCtrl_cursor (v : Byte) : (s.writeCtrl v).cursor = s.cursor := by
  unfold State.writeCtrl; split <;> [skip; split] <;> simp
@[simp] theorem State.writeCtrl_buf (v : Byte) : (s.writeCtrl v).buf = s.buf := by
  unfold State.writeCtrl; split <;> [skip; split] <;> simp
@[simp] theorem State.writeCtrl_bufSize (v : Byte) : (s.writeCtrl v).bufSize = s.bufSize := by
  unfold State.writeCtrl; split <;> [skip; split] <;> simp
@[simp] theorem State.writeCtrl_fault (v : Byte) : (s.writeCtrl v).fault = s.fault := by
  unfold State.writeCtrl; split <;> [skip; split] <;> simp
@[simp] theorem State.writeCtrl_aborted (v : Byte) : (s.writeCtrl v).aborted = s.aborted := by
  unfold State.writeCtrl; split <;> [skip; split] <;> simp
@[simp] theorem State.writeCtrl_word (v : Byte) : (s.writeCtrl v).word = s.word := by
  unfold State.writeCtrl; split <;> [skip; split] <;> simp
@[simp] theorem State.writeCtrl_hostMoves (v : Byte) : (s.writeCtrl v).hostMoves = s.hostMoves := by
  unfold State.writeCtrl; split <;> [skip; split] <;> simp
@[simp] theorem State.writeCtrl_hostExit (v : Byte) : (s.writeCtrl v).hostExit = s.hostExit := by
  unfold State.writeCtrl; split <;> [skip; split] <;> simp
@[simp] theorem State.writeCtrl_choices (v : Byte) : (s.writeCtrl v).choices = s.choices := by
  unfold State.writeCtrl; split <;> [skip; split] <;> simp
@[simp] theorem State.writeCtrl_devEpoch (v : Byte) : (s.writeCtrl v).devEpoch = s.devEpoch := by
  unfold State.writeCtrl; split <;> [skip; split] <;> simp

@[simp] theorem State.apply_params (e : MicroEvent) : (s.apply e).params = s.params := by cases e <;> simp [State.apply]
@[simp] theorem State.apply_portOpen (e : MicroEvent) : (s.apply e).portOpen = s.portOpen := by cases e <;> simp [State.apply]
@[simp] theorem State.apply_phase (e : MicroEvent) : (s.apply e).phase = s.phase := by cases e <;> simp [State.apply]
@[simp] theorem State.apply_pending (e : MicroEvent) : (s.apply e).pending = s.pending := by cases e <;> simp [State.apply]
@[simp] theorem State.apply_upc (e : MicroEvent) : (s.apply e).upc = s.upc := by cases e <;> simp [State.apply]
@[simp] theorem State.apply_cursor (e : MicroEvent) : (s.apply e).cursor = s.cursor := by cases e <;> simp [State.apply]
@[simp] theorem State.apply_buf (e : MicroEvent) : (s.apply e).buf = s.buf := by cases e <;> simp [State.apply]
@[simp] theorem State.apply_bufSize (e : MicroEvent) : (s.apply e).bufSize = s.bufSize := by cases e <;> simp [State.apply]
@[simp] theorem State.apply_fault (e : MicroEvent) : (s.apply e).fault = s.fault := by cases e <;> simp [State.apply]
@[simp] theorem State.apply_aborted (e : MicroEvent) : (s.apply e).aborted = s.aborted := by cases e <;> simp [State.apply]
@[simp] theorem State.apply_word (e : MicroEvent) : (s.apply e).word = s.word := by cases e <;> simp [State.apply]
@[simp] theorem State.apply_hostMoves (e : MicroEvent) : (s.apply e).hostMoves = s.hostMoves := by cases e <;> simp [State.apply]
@[simp] theorem State.apply_hostExit (e : MicroEvent) : (s.apply e).hostExit = s.hostExit := by cases e <;> simp [State.apply]
@[simp] theorem State.apply_choices (e : MicroEvent) : (s.apply e).choices = s.choices := by cases e <;> simp [State.apply]
@[simp] theorem State.apply_devEpoch (e : MicroEvent) : (s.apply e).devEpoch = s.devEpoch := by cases e <;> simp [State.apply]

@[simp] theorem State.afterFailedWrite_params (e : MicroEvent) : (s.afterFailedWrite e).params = s.params := by cases e <;> rfl
@[simp] theorem State.afterFailedWrite_portOpen (e : MicroEvent) : (s.afterFailedWrite e).portOpen = s.portOpen := by cases e <;> rfl
@[simp] theorem State.afterFailedWrite_phase (e : MicroEvent) : (s.afterFailedWrite e).phase = s.phase := by cases e <;> rfl
@[simp] theorem State.afterFailedWrite_pending (e : MicroEvent) : (s.afterFailedWrite e).pending = s.pending := by cases e <;> rfl
@[simp] theorem State.afterFailedWrite_upc (e : MicroEvent) : (s.afterFailedWrite e).upc = s.upc := by cases e <;> rfl
@[simp] theorem State.afterFailedWrite_cursor (e : MicroEvent) : (s.afterFailedWrite e).cursor = s.cursor := by cases e <;> rfl
@[simp] theorem State.afterFailedWrite_buf (e : MicroEvent) : (s.afterFailedWrite e).buf = s.buf := by cases e <;> rfl
@[simp] theorem State.afterFailedWrite_bufSize (e : MicroEvent) : (s.afterFailedWrite e).bufSize = s.bufSize := by cases e <;> rfl
@[simp] theorem State.afterFailedWrite_fault (e : MicroEvent) : (s.afterFailedWrite e).fault = s.fault := by cases e <;> rfl
@[simp] theorem State.afterFailedWrite_aborted (e : MicroEvent) : (s.afterFailedWrite e).aborted = s.aborted := by cases e <;> rfl
@[simp] theorem State.afterFailedWrite_word (e : MicroEvent) : (s.afterFailedWrite e).word = s.word := by cases e <;> rfl
@[simp] theorem State.afterFailedWrite_hostMoves (e : MicroEvent) : (s.afterFailedWrite e).hostMoves = s.hostMoves := by cases e <;> rfl
@[simp] theorem State.afterFailedWrite_hostExit (e : MicroEvent) : (s.afterFailedWrite e).hostExit = s.hostExit := by cases e <;> rfl
@[simp] theorem State.afterFailedWrite_choices (e : MicroEvent) : (s.afterFailedWrite e).choices = s.choices := by cases e <;> rfl
@[simp] theorem State.afterFailedWrite_devEpoch (e : MicroEvent) : (s.afterFailedWrite e).devEpoch = s.devEpoch := by cases e <;> rfl

@[simp] theorem State.failWrite_params (e : MicroEvent) : (s.failWrite e).params = s.params := by simp [State.failWrite]
@[simp] theorem State.failWrite_portOpen (e : MicroEvent) : (s.failWrite e).portOpen = s.portOpen := by simp [State.failWrite]
@[simp] theorem State.failWrite_phase (e : MicroEvent) : (s.failWrite e).phase = s.phase := by simp [State.failWrite]
@[simp] theorem State.failWrite_pending (e : MicroEvent) : (s.failWrite e).pending = s.pending := by simp [State.failWrite]
@[simp] theorem State.failWrite_upc (e : MicroEvent) : (s.failWrite e).upc = s.upc := by simp [State.failWrite]
@[simp] theorem State.failWrite_cursor (e : MicroEvent) : (s.failWrite e).cursor = s.cursor := by simp [State.failWrite]
@[simp] theorem State.failWrite_buf (e : MicroEvent) : (s.failWrite e).buf = s.buf := by simp [State.failWrite]
@[simp] theorem State.failWrite_bufSize (e : MicroEvent) : (s.failWrite e).bufSize = s.bufSize := by simp [State.failWrite]
@[simp] theorem State.failWrite_aborted (e : MicroEvent) : (s.failWrite e).aborted = s.aborted := by simp [State.failWrite]
@[simp] theorem State.failWrite_word (e : MicroEvent) : (s.failWrite e).word = s.word := by simp [State.failWrite]
@[simp] theorem State.failWrite_hostMoves (e : MicroEvent) : (s.failWrite e).hostMoves = s.hostMoves := by simp [State.failWrite]
@[simp] theorem State.failWrite_hostExit (e : MicroEvent) : (s.failWrite e).hostExit = s.hostExit := by simp [State.failWrite]
@[simp] theorem State.failWrite_choices (e : MicroEvent) : (s.failWrite e).choices = s.choices := by simp [State.failWrite]
@[simp] theorem State.failWrite_devEpoch (e : MicroEvent) : (s.failWrite e).devEpoch = s.devEpoch := by simp [State.failWrite]

@[simp] theorem State.consumeChoice_params : s.consumeChoice.params = s.params := by unfold State.consumeChoice; split <;> rfl
@[simp] theorem State.consumeChoice_dr : s.consumeChoice.dr = s.dr := by unfold State.consumeChoice; split <;> rfl
@[simp] theorem State.consumeChoice_cr : s.consumeChoice.cr = s.cr := by unfold State.consumeChoice; split <;> rfl
@[simp] theorem State.consumeChoice_latLo : s.consumeChoice.latLo = s.latLo := by unfold State.consumeChoice; split <;> rfl
@[simp] theorem State.consumeChoice_latHi : s.consumeChoice.latHi = s.latHi := by unfold State.consumeChoice; split <;> rfl
@[simp] theorem State.consumeChoice_dev : s.consumeChoice.dev = s.dev := by unfold State.consumeChoice; split <;> rfl
@[simp] theorem State.consumeChoice_portOpen : s.consumeChoice.portOpen = s.portOpen := by unfold State.consumeChoice; split <;> rfl
@[simp] theorem State.consumeChoice_phase : s.consumeChoice.phase = s.phase := by unfold State.consumeChoice; split <;> rfl
@[simp] theorem State.consumeChoice_pending : s.consumeChoice.pending = s.pending := by unfold State.consumeChoice; split <;> rfl
@[simp] theorem State.consumeChoice_upc : s.consumeChoice.upc = s.upc := by unfold State.consumeChoice; split <;> rfl
@[simp] theorem State.consumeChoice_cursor : s.consumeChoice.cursor = s.cursor := by unfold State.consumeChoice; split <;> rfl
@[simp] theorem State.consumeChoice_buf : s.consumeChoice.buf = s.buf := by unfold State.consumeChoice; split <;> rfl
@[simp] theorem State.consumeChoice_bufSize : s.consumeChoice.bufSize = s.bufSize := by unfold State.consumeChoice; split <;> rfl
@[simp] theorem State.consumeChoice_trace : s.consumeChoice.trace = s.trace := by unfold State.consumeChoice; split <;> rfl
@[simp] theorem State.consumeChoice_fault : s.consumeChoice.fault = s.fault := by unfold State.consumeChoice; split <;> rfl
@[simp] theorem State.consumeChoice_aborted : s.consumeChoice.aborted = s.aborted := by unfold State.consumeChoice; split <;> rfl
@[simp] theorem State.consumeChoice_word : s.consumeChoice.word = s.word := by unfold State.consumeChoice; split <;> rfl
@[simp] theorem State.consumeChoice_hostMoves : s.consumeChoice.hostMoves = s.hostMoves := by unfold State.consumeChoice; split <;> rfl
@[simp] theorem State.consumeChoice_hostExit : s.consumeChoice.hostExit = s.hostExit := by unfold State.consumeChoice; split <;> rfl
@[simp] theorem State.consumeChoice_draws : s.consumeChoice.draws = s.draws := by unfold State.consumeChoice; split <;> rfl
@[simp] theorem State.consumeChoice_devEpoch : s.consumeChoice.devEpoch = s.devEpoch := by unfold State.consumeChoice; split <;> rfl

end Sys2Proof.Machine
end

