-- ==== Sys2Proof/Laws/Memory.lean ====
section
/-! SUPPORT. Byte memories: reading after writing, and every operation keeps the canonical form. -/

namespace Sys2Proof.Machine

theorem Memory.read_write_same (m : Memory) (x : Nat) (v : Byte) : (m.write x v).read x = some v := by
  induction m with
  | nil => simp [Memory.write, Memory.read]
  | cons c m ih =>
    obtain ⟨a, w⟩ := c
    simp only [Memory.write]
    split
    · simp [Memory.read]
    · split
      · simp [Memory.read]
      · simp [Memory.read, *]

theorem Memory.read_write_other (m : Memory) {x y : Nat} (v : Byte) (h : y ≠ x) :
    (m.write x v).read y = m.read y := by
  induction m with
  | nil => simp [Memory.write, Memory.read, h]
  | cons c m ih =>
    obtain ⟨a, w⟩ := c
    simp only [Memory.write]
    split
    · simp [Memory.read, h]
    · split
      · subst_vars; simp [Memory.read, h]
      · simp [Memory.read, ih]

theorem Memory.read_write (m : Memory) (x y : Nat) (v : Byte) :
    (m.write x v).read y = if y = x then some v else m.read y := by
  split
  · subst_vars; exact Memory.read_write_same m _ v
  · exact Memory.read_write_other m v ‹_›

theorem Memory.mem_write {m : Memory} {x : Nat} {v : Byte} {c : Host.Cell} (h : c ∈ m.write x v) :
    c = (x, v) ∨ c ∈ m := by
  induction m with
  | nil => simpa [Memory.write] using h
  | cons d m ih =>
    obtain ⟨a, w⟩ := d
    simp only [Memory.write] at h
    split at h
    · simpa using h
    · split at h
      · rcases List.mem_cons.1 h with h | h <;> simp [h]
      · rcases List.mem_cons.1 h with h | h
        · simp [h]
        · rcases ih h with h | h <;> simp [h]

theorem Memory.wf_write {m : Memory} (h : Memory.wf m) (x : Nat) (v : Byte) : Memory.wf (m.write x v) := by
  induction m with
  | nil => simp [Memory.write]
  | cons d m ih =>
    obtain ⟨a, w⟩ := d
    rw [Memory.wf, List.pairwise_cons] at h
    simp only [Memory.write]
    split
    · rename_i hx
      refine List.pairwise_cons.2 ⟨fun c hc => ?_, List.pairwise_cons.2 h⟩
      rcases List.mem_cons.1 hc with rfl | hc
      · exact hx
      · exact lt_trans hx (h.1 c hc)
    · split
      · subst_vars; exact List.pairwise_cons.2 ⟨h.1, h.2⟩
      · refine List.pairwise_cons.2 ⟨fun c hc => ?_, ih h.2⟩
        rcases Memory.mem_write hc with rfl | hc
        · show a < x; omega
        · exact h.1 c hc

theorem Memory.mem_ofBytes {fill : Byte} {bytes : List Byte} {a : Nat} {c : Host.Cell}
    (h : c ∈ Memory.ofBytes fill a bytes) : a ≤ c.1 ∧ c.1 < a + bytes.length ∧ c.2 ≠ fill := by
  induction bytes generalizing a with
  | nil => simp [Memory.ofBytes] at h
  | cons v rest ih =>
    simp only [Memory.ofBytes, List.length_cons] at h ⊢
    split at h
    · have := ih h
      exact ⟨by omega, by omega, this.2.2⟩
    · rcases List.mem_cons.1 h with rfl | h
      · exact ⟨le_refl _, by simp, ‹_›⟩
      · have := ih h
        exact ⟨by omega, by omega, this.2.2⟩

theorem Memory.wf_ofBytes (fill : Byte) (a : Nat) (bytes : List Byte) : Memory.wf (Memory.ofBytes fill a bytes) := by
  induction bytes generalizing a with
  | nil => simp [Memory.ofBytes]
  | cons v rest ih =>
    simp only [Memory.ofBytes]
    split
    · exact ih _
    · exact List.pairwise_cons.2 ⟨fun c hc => (Memory.mem_ofBytes hc).1, ih _⟩

/-- Memory of bytes, read with its fill byte, gives the bytes and then the fill. -/
theorem Memory.read_ofBytes (fill : Byte) (a : Nat) (bytes : List Byte) (i : Nat) :
    (Memory.read (Memory.ofBytes fill a bytes) (a + i)).getD fill = bytes.getD i fill := by
  induction bytes generalizing a i with
  | nil => simp [Memory.ofBytes, Memory.read]
  | cons v rest ih =>
    have unlisted : ∀ (b : Nat) (l : List Byte) (x : Nat), x < b → Memory.read (Memory.ofBytes fill b l) x = none := by
      intro b l
      induction l generalizing b with
      | nil => simp [Memory.ofBytes, Memory.read]
      | cons w l ihl =>
        intro x hx
        simp only [Memory.ofBytes]
        split
        · exact ihl _ _ (by omega)
        · rw [Memory.read, if_neg (by omega)]
          exact ihl _ _ (by omega)
    cases i with
    | zero =>
      simp only [Memory.ofBytes, Nat.add_zero]
      split
      · rw [unlisted _ _ _ (by omega)]; simp_all
      · simp [Memory.read]
    | succ i =>
      have := ih (a + 1) i
      rw [show a + 1 + i = a + (i + 1) by omega] at this
      simp only [Memory.ofBytes, List.getD_cons_succ]
      split
      · exact this
      · rw [Memory.read, if_neg (by omega)]
        exact this

/-- Every step's write to `DEV` keeps it canonical and inside the target's cells (R49). -/
theorem State.devWritten_wf {s : State} (h : s.devWf) (a : Addr) (v : Byte) :
    Memory.wf (s.devWritten a v) ∧ ∀ c ∈ s.devWritten a v, c.1 < 2 ^ s.params.devAddrBits := by
  refine ⟨Memory.wf_write h.1 _ _, fun c hc => ?_⟩
  rcases Memory.mem_write hc with rfl | hc
  · exact Nat.mod_lt _ (Nat.two_pow_pos _)
  · exact h.2 c hc

/-- A write to `DEV` changes no cell but its own (R50). -/
theorem State.devWritten_other (s : State) {a : Addr} {cell : Nat} (v : Byte) (h : cell ≠ s.devAddr a) :
    Memory.read (s.devWritten a v) cell = s.devKnown cell :=
  Memory.read_write_other _ _ h

/-- The memory of the reset state is canonical. -/
theorem State.reset_memory_wf : State.reset.devWf ∧ State.reset.bufWf := by
  simp [State.devWf, State.bufWf, Memory.wf, State.reset]

/-- The buffer the host builds is canonical (R167, R168). -/
theorem buildBuffer_wf (n : Nat) (file : List Byte) :
    Memory.wf (Memory.ofBytes Config.fill 0 (file.take n)) ∧
      ∀ c ∈ Memory.ofBytes Config.fill 0 (file.take n), c.1 < n ∧ c.2 ≠ Config.fill := by
  refine ⟨Memory.wf_ofBytes _ _ _, fun c hc => ?_⟩
  have h := Memory.mem_ofBytes hc
  have : (file.take n).length ≤ n := by simp
  exact ⟨by omega, h.2.2⟩

end Sys2Proof.Machine
end

