-- ==== Sys2Proof/Laws/Reactions.lean ====
section
/-! SUPPORT. The environment's reaction to each control transition of R63, as one equation per transition: what the prover
of a command cites instead of unfolding the reactions. -/

namespace Sys2Proof.Machine

/-- `PHYS_MAP` separates the named states (R61). -/
theorem ctrlByte_inj {p : Params} (h : paramsWf p = true) {c d : Control} (e : ctrlByte p c = ctrlByte p d) : c = d := by
  simp only [paramsWf, physInjective, Bool.and_eq_true, List.all_eq_true] at h
  have := h.1.1 c (by cases c <;> simp [Control.all]) d (by cases d <;> simp [Control.all])
  simpa [e] using this

theorem ctrlByte_ne {p : Params} (h : paramsWf p = true) {c d : Control} (ne : c ≠ d) : ctrlByte p c ≠ ctrlByte p d :=
  fun e => ne (ctrlByte_inj h e)

/-- The inverse of `PHYS_MAP` on the byte of a named state (R23, R61). -/
theorem physInv_ctrlByte {p : Params} (h : paramsWf p = true) (c : Control) :
    physInv p (ctrlByte p c) = some c.lines := by
  have ne : ∀ d : Control, d ≠ c → (phys p d.lines == phys p c.lines) = false := fun d hd => by
    simpa [ctrlByte] using ctrlByte_ne h hd
  cases c <;> simp [physInv, linesNamedFirst, Control.all, ne, ctrlByte]

/-- `L` while `CR` holds a named state (R23). -/
theorem lines_of_holds {s : State} (h : paramsWf s.params = true) {c : Control} (hc : s.holds c) :
    s.lines = some c.lines := by
  rw [State.lines, hc]
  exact physInv_ctrlByte h c

/-- `L` while `CR` is `⊥` (R23). -/
theorem lines_of_unknown {s : State} (hc : s.cr = none) : s.lines = none := by
  rw [State.lines, hc]; rfl

/-- A write of a named control state is the store and the reactions (R81). -/
theorem writeCtrl_named {s : State} (h : paramsWf s.params = true) (d : Control) :
    s.writeCtrl (ctrlByte s.params d) = (s.storeCtrl (ctrlByte s.params d)).react s.lines d.lines := by
  rw [State.writeCtrl, physInv_ctrlByte h d]

section transitions

variable {s : State} (h : paramsWf s.params = true)
include h

/-- R63: `C_IDLE` to `C_LOW_OPEN` opens the low latch (R44). -/
theorem writeCtrl_idle_lowOpen (hc : s.holds .idle) :
    s.writeCtrl (ctrlByte s.params .lowOpen) =
      { s with cr := some (ctrlByte s.params .lowOpen), latLo := .opened,
               trace := s.trace ++ [.wc (ctrlByte s.params .lowOpen)] } := by
  rw [writeCtrl_named h, lines_of_holds h hc]
  simp [State.react, State.lowReact, State.highReact, State.deviceReact, deviceReaction, latchReaction, LatchReaction.latch,
    LatchReaction.events, Line.falling, Line.rising, Line.level, Line.bit, Control.lines, State.storeCtrl]

/-- R63: `C_LOW_OPEN` to `C_IDLE` captures the low byte (R44). -/
theorem writeCtrl_lowOpen_idle (hc : s.holds .lowOpen) {b : Byte} (hd : s.dr = some b) :
    s.writeCtrl (ctrlByte s.params .idle) =
      { s with cr := some (ctrlByte s.params .idle), latLo := .held b,
               trace := s.trace ++ [.wc (ctrlByte s.params .idle), .capLo (some b)] } := by
  rw [writeCtrl_named h, lines_of_holds h hc]
  simp [State.react, State.lowReact, State.highReact, State.deviceReact, deviceReaction, latchReaction, LatchReaction.latch,
    LatchReaction.events, Line.falling, Line.rising, Line.level, Line.bit, Control.lines, State.storeCtrl, hd]

/-- R63: `C_IDLE` to `C_HIGH_OPEN` opens the high latch (R45). -/
theorem writeCtrl_idle_highOpen (hc : s.holds .idle) :
    s.writeCtrl (ctrlByte s.params .highOpen) =
      { s with cr := some (ctrlByte s.params .highOpen), latHi := .opened,
               trace := s.trace ++ [.wc (ctrlByte s.params .highOpen)] } := by
  rw [writeCtrl_named h, lines_of_holds h hc]
  simp [State.react, State.lowReact, State.highReact, State.deviceReact, deviceReaction, latchReaction, LatchReaction.latch,
    LatchReaction.events, Line.falling, Line.rising, Line.level, Line.bit, Control.lines, State.storeCtrl]

/-- R63: `C_HIGH_OPEN` to `C_IDLE` captures the high byte (R45). -/
theorem writeCtrl_highOpen_idle (hc : s.holds .highOpen) {b : Byte} (hd : s.dr = some b) :
    s.writeCtrl (ctrlByte s.params .idle) =
      { s with cr := some (ctrlByte s.params .idle), latHi := .held b,
               trace := s.trace ++ [.wc (ctrlByte s.params .idle), .capHi (some b)] } := by
  rw [writeCtrl_named h, lines_of_holds h hc]
  simp [State.react, State.lowReact, State.highReact, State.deviceReact, deviceReaction, latchReaction, LatchReaction.latch,
    LatchReaction.events, Line.falling, Line.rising, Line.level, Line.bit, Control.lines, State.storeCtrl, hd]

/-- R63: `C_IDLE` to `C_STROBE`: a rising strobe edge writes nothing (R48). -/
theorem writeCtrl_idle_strobe (hc : s.holds .idle) :
    s.writeCtrl (ctrlByte s.params .strobe) =
      { s with cr := some (ctrlByte s.params .strobe), trace := s.trace ++ [.wc (ctrlByte s.params .strobe)] } := by
  rw [writeCtrl_named h, lines_of_holds h hc]
  simp [State.react, State.lowReact, State.highReact, State.deviceReact, deviceReaction, latchReaction, LatchReaction.latch,
    LatchReaction.events, Line.falling, Line.rising, Line.level, Line.bit, Control.lines, State.storeCtrl]

/-- R63: `C_STROBE` to `C_IDLE` writes the device at the latched address (R47). -/
theorem writeCtrl_strobe_idle (hc : s.holds .strobe) {hi lo b : Byte} (hh : s.latHi = .held hi)
    (hl : s.latLo = .held lo) (hd : s.dr = some b) :
    s.writeCtrl (ctrlByte s.params .idle) =
      { s with cr := some (ctrlByte s.params .idle), dev := s.devWritten (joinAddr hi lo) b,
               trace := s.trace ++ [.wc (ctrlByte s.params .idle), .devw (some hi) (some lo) (some b)] } := by
  rw [writeCtrl_named h, lines_of_holds h hc]
  simp [State.react, State.lowReact, State.highReact, State.deviceReact, deviceReaction, latchReaction, LatchReaction.latch,
    LatchReaction.events, Line.falling, Line.rising, Line.level, Line.bit, Control.lines, State.storeCtrl, hh, hl, hd,
    presentedByte, Line.steadyHigh, State.devWritten, State.devAddr, State.devCell, State.devKnown]

/-- R63: `C_IDLE` to `C_OFF`: only `PROGRAM` falls, and nothing reacts (R91). -/
theorem writeCtrl_idle_off (hc : s.holds .idle) :
    s.writeCtrl (ctrlByte s.params .off) =
      { s with cr := some (ctrlByte s.params .off), trace := s.trace ++ [.wc (ctrlByte s.params .off)] } := by
  rw [writeCtrl_named h, lines_of_holds h hc]
  simp [State.react, State.lowReact, State.highReact, State.deviceReact, deviceReaction, latchReaction, LatchReaction.latch,
    LatchReaction.events, Line.falling, Line.rising, Line.level, Line.bit, Control.lines, State.storeCtrl]

/-- R63: `C_OFF` to `C_IDLE`: only `PROGRAM` rises, and nothing reacts (R90). -/
theorem writeCtrl_off_idle (hc : s.holds .off) :
    s.writeCtrl (ctrlByte s.params .idle) =
      { s with cr := some (ctrlByte s.params .idle), trace := s.trace ++ [.wc (ctrlByte s.params .idle)] } := by
  rw [writeCtrl_named h, lines_of_holds h hc]
  simp [State.react, State.lowReact, State.highReact, State.deviceReact, deviceReaction, latchReaction, LatchReaction.latch,
    LatchReaction.events, Line.falling, Line.rising, Line.level, Line.bit, Control.lines, State.storeCtrl]

/-- R63, R90: the first control write after the port opened, from `⊥` to `C_IDLE`: both latches become unknown and the target may
have taken one write (R44, R45, R48). -/
theorem writeCtrl_unknown_idle (hc : s.cr = none) :
    s.writeCtrl (ctrlByte s.params .idle) =
      { s with
        cr := some (ctrlByte s.params .idle), latLo := .unknown, latHi := .unknown, draws := s.draws + 1
        dev := if Config.drawTaken s.draws then s.devWritten (Config.drawAddr s.draws) (Config.drawByte s.draws) else s.dev
        trace := s.trace ++ [.wc (ctrlByte s.params .idle)] ++
          (if Config.drawTaken s.draws then [.devw none none none] else []) ++ [.capLo none, .capHi none] } := by
  rw [writeCtrl_named h, lines_of_unknown hc]
  cases ht : Config.drawTaken s.draws <;> simp [State.react, State.lowReact, State.highReact, State.deviceReact, deviceReaction, latchReaction, LatchReaction.latch,
    LatchReaction.events, Line.level, Line.bit, Control.lines, State.storeCtrl, State.spuriousWrite, ht,
    State.devWritten, State.devAddr, State.devCell, State.devKnown]

end transitions

end Sys2Proof.Machine
end

