-- ==== Sys2Proof/Laws/Commands.lean ====
section
/-! SUPPORT. What performing a micro-event, taking a command and one step can do: one lemma per shared operation, cited instead of
unfolding it. -/

namespace Sys2Proof.Machine

/-! ### Micro-events -/

/-- A micro-event that does not fail takes its effect and its bookkeeping (R83). -/
theorem State.perform_ok {s : State} {e : MicroEvent} (h : s.writeFails = false) (done : State → State) :
    s.perform e done = done (s.apply e) := by
  simp [State.perform, h]

/-- A port write that fails (R146). -/
theorem State.perform_fails {s : State} {e : MicroEvent} (h : s.writeFails = true) (he : e.isPortWrite = true)
    (done : State → State) : s.perform e done = s.failWrite e := by
  simp [State.perform, h, he]

/-- All that performing a micro-event can do. -/
theorem State.perform_cases (s : State) (e : MicroEvent) (done : State → State) :
    s.perform e done = done (s.apply e) ∨ (s.writeFails = true ∧ e.isPortWrite = true ∧ s.perform e done = s.failWrite e) := by
  cases hf : s.writeFails <;> cases he : e.isPortWrite <;> simp [State.perform, hf, he]

theorem State.runPending_cons {s : State} {e : MicroEvent} {rest : List MicroEvent} (h : s.pending = e :: rest) :
    s.runPending = s.perform e fun t => { t with pending := rest } := by
  simp [State.runPending, h]

/-- A failed write raises its fault with the position it happened at (R140, R146). -/
theorem State.failWrite_fault (s : State) (e : MicroEvent) :
    (s.failWrite e).fault = some { reason := .portWriteFailed e, word := s.word, pending := s.pending, upc := s.upc } := by
  simp [State.failWrite]

/-! ### Taking a command -/

/-- All that taking a command can do (R83 case 3). -/
theorem State.takeCommand_cases (i : Instr) (run : State → State) (s : State) :
    (admission i s = none ∧ s.takeCommand i run = run { s with word := commandWordOf i }) ∨
    ∃ f, admission i s = some f ∧ s.takeCommand i run = { s with word := commandWordOf i }.raise f := by
  unfold State.takeCommand
  cases admission i s with
  | none => exact .inl ⟨rfl, rfl⟩
  | some f => exact .inr ⟨f, rfl, rfl⟩

theorem State.takeCommand_ok {i : Instr} {s : State} (h : admission i s = none) (run : State → State) :
    s.takeCommand i run = run { s with word := commandWordOf i } := by
  simp [State.takeCommand, h]

theorem State.takeCommand_raises {i : Instr} {s : State} {f : Fault} (h : admission i s = some f) (run : State → State) :
    s.takeCommand i run = { s with word := commandWordOf i }.raise f := by
  simp [State.takeCommand, h]

/-- A command that is admitted and whose first port write does not fail (R83, R84). -/
theorem State.start_ok {i : Instr} {s : State} {e : MicroEvent} {rest : List MicroEvent} (h : admission i s = none)
    (hf : s.writeFails = false) :
    s.start i (e :: rest) = { State.apply e { s with word := commandWordOf i, pending := e :: rest } with pending := rest } := by
  have hf' : State.writeFails { s with word := commandWordOf i, pending := e :: rest } = false := hf
  rw [State.start, State.takeCommand_ok h, State.runPending_cons rfl, State.perform_ok hf']

/-- The port must be open before any other check (R147). -/
theorem admission_closed {s : State} (h : s.portOpen = false) (i : Instr) : admission i s = some .portNotOpen := by
  simp [admission, h]

/-- ENABLE and TRANSFER are admitted outside a session (R90, R122). -/
theorem admission_outside {s : State} (ho : s.portOpen = true) (hp : s.phase = .idle) {i : Instr}
    (hi : i = .enable ∨ i = .transfer) : admission i s = none := by
  rcases hi with rfl | rfl <;> simp [admission, ho, phaseFault, wantedPhase, hp, latchFault]

/-- Inside a session the only check left is that of the latches (R147). -/
theorem admission_session {s : State} (ho : s.portOpen = true) (hp : s.phase = .enabled) {i : Instr}
    (hi : wantedPhase i = .enabled) : admission i s = latchFault i s := by
  simp [admission, ho, phaseFault, hi, hp]

/-! ### Every meaning answers a next state -/

/-- No instruction refuses and none faults outright: a fault is recorded in the next state (R140). -/
theorem exec_next (i : Instr) (s : State) : ∃ t, exec i s = .next t := by
  cases i <;> exact ⟨_, rfl⟩

/-- A command word never spells a micro-op (R68). -/
theorem decodeCommand_command {w : CommandWord} {i : Instr} (h : decodeCommand w = .instr i) :
    (∀ v, i ≠ .wrData v) ∧ ∀ v, i ≠ .wrCtrl v := by
  unfold decodeCommand decodeFields decodeNone decodeByte at h
  repeat' split at h
  all_goals simp at h <;> subst h <;> simp

/-! ### The step -/

/-- All that a step answering a next state can have done (R83, R85, R148, R149). -/
theorem step_cases {s t : State} (h : stepOnce s = .next t) :
    stopped s = none ∧
    ((s.choices.head? = some .abort ∧ t = s.consumeChoice.abort) ∨
     (s.portRefuses = true ∧ s.nextWritesPort = true ∧ t = s.consumeChoice) ∨
     ∃ u, advance s = .next u ∧ t = u.consumeChoice) := by
  unfold stepOnce at h
  cases hs : stopped s with
  | some o =>
    simp only [hs] at h
    subst h
    unfold stopped at hs
    split at hs
    · simp at hs
    · split at hs <;> [simp at hs; split at hs <;> simp at hs]
  | none =>
    simp only [hs] at h
    refine ⟨rfl, ?_⟩
    split at h
    · exact .inl ⟨‹_›, by simpa using h.symm⟩
    · split at h
      · rename_i hp
        simp only [Bool.and_eq_true] at hp
        exact .inr (.inl ⟨hp.1, hp.2, by simpa using h.symm⟩)
      · refine .inr (.inr ?_)
        cases ha : advance s with
        | next u => exact ⟨u, rfl, by simpa [ha, onNext] using h.symm⟩
        | fault r => simp [ha, onNext] at h
        | refused r => simp [ha, onNext] at h

/-- A machine that steps is running (R83 case 1). -/
theorem running_of_stopped {s : State} (h : stopped s = none) : s.Running := by
  unfold stopped at h
  cases hf : s.fault with
  | some r => simp [hf] at h
  | none =>
    simp only [hf] at h
    cases ha : s.aborted <;> cases he : s.hostExit <;> simp [ha, he] at h
    exact ⟨hf, ha, he⟩

theorem stopped_of_running {s : State} (h : s.Running) : stopped s = none := by
  simp [stopped, h.1, h.2.1, h.2.2]

/-- All that a step that proceeds can have done (R83 cases 2 to 4). -/
theorem advance_cases {s u : State} (h : advance s = .next u) :
    (∃ e rest, s.pending = e :: rest ∧ u = s.perform e fun t => { t with pending := rest }) ∨
    (s.pending = [] ∧ ∃ q c, s.upc = some q ∧ (s.cursor = some c ∨ s.cursor = none ∧ q.readsCursor = false) ∧
      u = s.microStep q c) ∨
    (s.Between ∧ ∃ m rest, s.hostMoves = m :: rest ∧ hostMove m { s with hostMoves := rest } = .next u) := by
  unfold advance at h
  split at h
  · rename_i e rest hp
    exact .inl ⟨e, rest, hp, by rw [← State.runPending_cons hp]; simpa using h.symm⟩
  · rename_i q hp hq
    refine .inr (.inl ⟨hp, q, ?_⟩)
    unfold State.runMicroprogram at h
    split at h
    · exact ⟨_, hq, .inl ‹_›, by simpa using h.symm⟩
    · split at h
      · simp at h
      · exact ⟨0, hq, .inr ⟨‹_›, by simp_all⟩, by simpa using h.symm⟩
  · rename_i m rest hp hq hm
    exact .inr (.inr ⟨⟨hp, hq⟩, m, rest, hm, h⟩)
  · simp at h

/-- All that a move of the host can do (R83, R163, R164, R171). -/
theorem hostMove_cases {m : HostMove} {s u : State} (h : hostMove m s = .next u) :
    (∃ w i, m = .command w ∧ decodeCommand w = .instr i ∧ exec i s = .next u) ∨
    (∃ w r, m = .command w ∧ decodeCommand w = .illegal r ∧ u = s.takeIllegal w) ∨
    (m = .portOpen true ∧ u = s.openPort) ∨
    (m = .portClose ∧ u = s.closePort) ∨
    ∃ x, (m = .exit x ∨ m = .portOpen false ∧ x = .failure) ∧ u = s.exitHost x := by
  unfold hostMove at h
  split at h
  · split at h
    · exact .inl ⟨_, _, rfl, ‹_›, h⟩
    · exact .inr (.inl ⟨_, _, rfl, ‹_›, by simpa using h.symm⟩)
  · exact .inr (.inr (.inl ⟨rfl, by simpa using h.symm⟩))
  · exact .inr (.inr (.inr (.inr ⟨.failure, .inr ⟨rfl, rfl⟩, by simpa using h.symm⟩)))
  · exact .inr (.inr (.inr (.inl ⟨rfl, by simpa using h.symm⟩)))
  · exact .inr (.inr (.inr (.inr ⟨_, .inl rfl, by simpa using h.symm⟩)))

end Sys2Proof.Machine
end

