-- ==== Sys2Proof/Laws/Devices.lean ====
section
/-! SUPPORT. The target memory through the operations: which cell a reaction writes, and that the canonical form is kept. -/

namespace Sys2Proof.Machine

/-- A reaction changes no cell but the one it stores to (R50). -/
theorem State.deviceReact_other (s : State) (r : DeviceReaction) {cell : Nat} (h : storedCell r s ≠ some cell) :
    (s.deviceReact r).devKnown cell = s.devKnown cell := by
  cases r with
  | quiet => rfl
  | write hi lo d =>
    exact State.devWritten_other s d fun e => h (by simp [storedCell, e])
  | unknown hi lo d =>
    exact State.devWritten_other s _ fun e => h (by simp [storedCell, e])
  | spurious =>
    simp only [State.deviceReact, State.spuriousWrite, State.devKnown]
    split
    · exact State.devWritten_other s _ fun e => h (by simp [storedCell, *])
    · rfl

/-- The latches' reactions leave `DEV` alone (R44, R45). -/
theorem State.react_dev (s : State) (o : Option Lines) (n : Lines) :
    (s.react o n).dev = (s.deviceReact (deviceReaction o n s)).dev := rfl

theorem State.spuriousWrite_devWf {s : State} (h : s.devWf) : s.spuriousWrite.devWf := by
  unfold State.spuriousWrite State.devWf
  simp only
  split
  · exact State.devWritten_wf h _ _
  · exact h

theorem State.deviceReact_devWf {s : State} (h : s.devWf) (r : DeviceReaction) : (s.deviceReact r).devWf := by
  cases r with
  | quiet => exact h
  | write hi lo d => exact State.devWritten_wf h _ _
  | unknown hi lo d => exact State.devWritten_wf h _ _
  | spurious => exact State.spuriousWrite_devWf h

theorem State.react_devWf {s : State} (h : s.devWf) (o : Option Lines) (n : Lines) : (s.react o n).devWf :=
  State.deviceReact_devWf h _

theorem State.writeCtrl_devWf {s : State} (h : s.devWf) (v : Byte) : (s.writeCtrl v).devWf := by
  unfold State.writeCtrl
  split
  · exact State.react_devWf (s := s.storeCtrl v) h _ _
  · split
    · exact h
    · exact State.react_devWf (s := { s.storeCtrl v with draws := s.draws + 1 }) h _ _

theorem State.apply_devWf {s : State} (h : s.devWf) (e : MicroEvent) : (s.apply e).devWf := by
  cases e with
  | wrCtrl v => exact State.writeCtrl_devWf h v
  | _ => exact h

theorem State.failWrite_devWf {s : State} (h : s.devWf) (e : MicroEvent) : (s.failWrite e).devWf := by
  cases e with
  | wrCtrl v =>
    exact State.spuriousWrite_devWf (s := { s with cr := none, latLo := .unknown, latHi := .unknown }) h
  | _ => exact h

/-- Performing a micro-event keeps `DEV` canonical if its bookkeeping leaves `DEV` and the parameters alone. -/
theorem State.perform_devWf {s : State} (h : s.devWf) (e : MicroEvent) {done : State → State}
    (hd : ∀ t, (done t).dev = t.dev ∧ (done t).params = t.params) : (s.perform e done).devWf := by
  rcases State.perform_cases s e done with hp | ⟨_, _, hp⟩ <;> rw [hp]
  · unfold State.devWf
    rw [(hd _).1, (hd _).2]
    exact State.apply_devWf h e
  · exact State.failWrite_devWf h e

/-- The bookkeeping of the micro-program touches neither `DEV` nor the parameters (R124). -/
theorem Upc.finish_dev (u : Upc) (c : Nat) (t : State) : (u.finish c t).dev = t.dev ∧ (u.finish c t).params = t.params := by
  cases u <;> exact ⟨rfl, rfl⟩

theorem State.microStep_devWf {s : State} (h : s.devWf) (u : Upc) (c : Nat) : (s.microStep u c).devWf :=
  State.perform_devWf h _ (u.finish_dev c)

end Sys2Proof.Machine
end

