-- ==== Sys2Proof/Laws/PerInstr.lean ====
section
/-! SUPPORT. What every instruction's word has in common, one lemma per constructor: it carries the fixed bits of its row of
spec/opcode_table.json, and the byte or address fields stand where the row puts them. -/

namespace Sys2Proof.Laws.TableFixedBits

/-- The width of a word in bits and the word as a number (R64, R68). -/
def wordBits : InstrWord → Nat × Nat
  | .command w => (24, w.toNat)
  | .microop m => (9, m.toNat)

/-- A row of the table: its width, `mask`, `match`, and the operand the word has outside the mask. -/
structure Row where
  /-- `width`. -/
  width : Nat
  /-- `mask`. -/
  mask : Nat
  /-- `match`. -/
  fixed : Nat
  /-- The value of the row's one field, 0 without a field. -/
  field : Nat

/-- The table's rows, copied from spec/opcode_table.json. -/
def row : Instr → Row
  | .enable => ⟨24, 0xFFFFFF, 0x100000, 0⟩
  | .disable => ⟨24, 0xFFFFFF, 0x200000, 0⟩
  | .latchLow b => ⟨24, 0xFFFF00, 0x300000, b.toNat⟩
  | .latchHigh b => ⟨24, 0xFFFF00, 0x400000, b.toNat⟩
  | .strobe b => ⟨24, 0xFFFF00, 0x500000, b.toNat⟩
  | .cycle a => ⟨24, 0xFF0000, 0x600000, a.toNat⟩
  | .transfer => ⟨24, 0xFFFFFF, 0x700000, 0⟩
  | .wrData v => ⟨9, 0x100, 0x000, v.toNat⟩
  | .wrCtrl v => ⟨9, 0x100, 0x100, v.toNat⟩

/-- The word of `i` has its row's width and is the row's fixed bits with the field below them. -/
def Statement (i : Instr) : Prop :=
  wordBits (encode i) = ((row i).width, (row i).fixed + (row i).field) ∧ (row i).fixed &&& (row i).mask = (row i).fixed ∧
  (row i).field < 2 ^ (row i).width - (row i).mask

theorem enable : Statement .enable := by unfold Statement; decide

theorem disable : Statement .disable := by unfold Statement; decide

/-- The value of a word built from an opcode and an operand (R64). -/
theorem commandWord_toNat (op : BitVec 4) (imm : Addr) : (commandWord op imm).toNat = op.toNat * 0x100000 + imm.toNat := by
  have := imm.isLt
  have := op.isLt
  simp only [commandWord, BitVec.toNat_append, Nat.shiftLeft_eq]
  rw [← Nat.shiftLeft_eq, ← Nat.shiftLeft_add_eq_or_of_lt (by omega), ← Nat.shiftLeft_eq, ← Nat.shiftLeft_add_eq_or_of_lt (by simp)]
  simp only [Nat.shiftLeft_eq]
  simp; omega

/-- The word of a command with a byte operand (R66). -/
theorem wordBits_byte (op : BitVec 4) (b : Byte) :
    wordBits (.command (commandWord op (b.setWidth 16))) = (24, op.toNat * 0x100000 + b.toNat) := by
  have := b.isLt
  rw [wordBits, commandWord_toNat, BitVec.toNat_setWidth, Nat.mod_eq_of_lt (by omega)]

theorem latchLow (b : Byte) : Statement (.latchLow b) :=
  ⟨by rw [encode, wordBits_byte]; simp [row], by simp only [row]; decide, by
    show b.toNat < 2 ^ 24 - 0xFFFF00
    rw [show 2 ^ 24 - 0xFFFF00 = 2 ^ 8 by decide]
    exact b.isLt⟩

theorem latchHigh (b : Byte) : Statement (.latchHigh b) :=
  ⟨by rw [encode, wordBits_byte]; simp [row], by simp only [row]; decide, by
    show b.toNat < 2 ^ 24 - 0xFFFF00
    rw [show 2 ^ 24 - 0xFFFF00 = 2 ^ 8 by decide]
    exact b.isLt⟩

theorem strobe (b : Byte) : Statement (.strobe b) :=
  ⟨by rw [encode, wordBits_byte]; simp [row], by simp only [row]; decide, by
    show b.toNat < 2 ^ 24 - 0xFFFF00
    rw [show 2 ^ 24 - 0xFFFF00 = 2 ^ 8 by decide]
    exact b.isLt⟩

theorem cycle (a : Addr) : Statement (.cycle a) :=
  ⟨by rw [encode, wordBits, commandWord_toNat]; simp [row], by simp only [row]; decide, by
    show a.toNat < 2 ^ 24 - 0xFF0000
    rw [show 2 ^ 24 - 0xFF0000 = 2 ^ 16 by decide]
    exact a.isLt⟩

theorem transfer : Statement .transfer := by unfold Statement; decide

theorem wrData (v : Byte) : Statement (.wrData v) := by
  revert v; unfold Statement; decide

theorem wrCtrl (v : Byte) : Statement (.wrCtrl v) := by
  revert v; unfold Statement; decide

end Sys2Proof.Laws.TableFixedBits
end

