-- ==== Sys2Proof/Laws/Failures.lean ====
section
/-! SUPPORT. A port write that fails (R146): what performing a micro-event and taking a command leave then, once each, with the
command words a fault record holds. -/

namespace Sys2Proof.Machine

/-- The word of a byte command is its opcode's word plus the byte (R65, R66). -/
theorem commandWord_byte (op : BitVec 4) (b : Byte) : commandWord op (b.setWidth 16) = commandWord op 0 + b.setWidth 24 := by
  apply BitVec.eq_of_toNat_eq
  have := b.isLt
  have := op.isLt
  simp only [Laws.TableFixedBits.commandWord_toNat, BitVec.toNat_add, BitVec.toNat_setWidth]
  have : (0 : Addr).toNat = 0 := rfl
  omega

/-- The word of an address command is its opcode's word plus the address (R65, R66). -/
theorem commandWord_addr (op : BitVec 4) (a : Addr) : commandWord op a = commandWord op 0 + a.setWidth 24 := by
  apply BitVec.eq_of_toNat_eq
  have := a.isLt
  have := op.isLt
  simp only [Laws.TableFixedBits.commandWord_toNat, BitVec.toNat_add, BitVec.toNat_setWidth]
  have : (0 : Addr).toNat = 0 := rfl
  omega

/-- Performing a port write that fails (R146). -/
theorem failedAt_perform {s : State} {e : MicroEvent} (h : s.writeFails = true) (he : e.isPortWrite = true)
    (done : State → State) : FailedAt e s.word s.pending s.upc s (.next (s.perform e done)) := by
  rw [State.perform_fails h he]
  cases e with
  | wrData v => rfl
  | wrCtrl v => rfl
  | progress k => cases he
  | complete => cases he

/-- What a failed write loses does not depend on the sequencer's registers. -/
theorem State.lost_sequencer (e : MicroEvent) (s : State) (w : Option CommandWord) (p : List MicroEvent) (u : Option Upc) :
    State.lost e { s with word := w, pending := p, upc := u } = { s.lost e with word := w, pending := p, upc := u } := by
  cases e <;> rfl

/-- Taking a command that is admitted and whose first port write fails (R83, R146). -/
theorem failedAt_start {s : State} {i : Instr} {e : MicroEvent} {rest : List MicroEvent} (h : s.writeFails = true)
    (he : e.isPortWrite = true) (ha : admission i s = none) :
    FailedAt e (commandWordOf i) (e :: rest) s.upc s (.next (s.start i (e :: rest))) := by
  rw [State.start, State.takeCommand_ok ha, State.runPending_cons rfl]
  refine Eq.trans (failedAt_perform (s := { s with word := commandWordOf i, pending := e :: rest }) h he _) ?_
  exact congrArg Host.Outcome.next
    (congrArg (fun t : State => { t with
      word := commandWordOf i, pending := e :: rest, upc := s.upc
      fault := some { reason := .portWriteFailed e, word := commandWordOf i, pending := e :: rest, upc := s.upc } })
      (State.lost_sequencer e s (commandWordOf i) (e :: rest) s.upc))

end Sys2Proof.Machine
end

