-- ==== Sys2Proof/Laws/MicroProgram.lean ====
section
/-! SUPPORT. The micro-program of TRANSFER row by row (R124): what a state's event with its bookkeeping makes of the machine, when
the control lines stand as they do in a transfer. -/

namespace Sys2Proof.Machine

/-- The effect of one row of R124: the event, then the other writes. -/
abbrev State.row (u : Upc) (c : Nat) (s : State) : State := u.finish c (s.apply (u.event c s))

/-- A row that does not fail (R83, R124). -/
theorem State.microStep_ok {s : State} (h : s.writeFails = false) (u : Upc) (c : Nat) : s.microStep u c = s.row u c :=
  State.perform_ok h _

theorem row_progress (s : State) (c : Nat) :
    s.row .s1 c = { s with trace := s.trace ++ [.progress (progressCount c)],
                           upc := some (if relatchDue (cursorAddr c) then .s2 else .s5) } := rfl

theorem row_highData (s : State) (c : Nat) :
    s.row .s2 c = { s with dr := some (highByte (cursorAddr c)), trace := s.trace ++ [.wd (highByte (cursorAddr c))],
                           upc := some .s3 } := rfl

theorem row_lowData (s : State) (c : Nat) :
    s.row .s5 c = { s with dr := some (lowByte (cursorAddr c)), trace := s.trace ++ [.wd (lowByte (cursorAddr c))],
                           upc := some .s6 } := rfl

theorem row_payload (s : State) (c : Nat) :
    s.row .s8 c = { s with dr := some (s.bufByte (cursorAddr c)), trace := s.trace ++ [.wd (s.bufByte (cursorAddr c))],
                           upc := some .s9 } := rfl

theorem row_complete (s : State) (c : Nat) :
    s.row .s12 c = { s with trace := s.trace ++ [.complete], upc := none } := rfl

section control

variable {s : State} (h : paramsWf s.params = true)
include h

theorem row_highOpen (hc : s.holds .idle) (c : Nat) :
    s.row .s3 c = { s with cr := some (ctrlByte s.params .highOpen), latHi := .opened,
                           trace := s.trace ++ [.wc (ctrlByte s.params .highOpen)], upc := some .s4 } := by
  simp only [State.row, Upc.finish, Upc.event, State.apply, writeCtrl_idle_highOpen h hc]

theorem row_highClose (hc : s.holds .highOpen) {b : Byte} (hd : s.dr = some b) (c : Nat) :
    s.row .s4 c = { s with cr := some (ctrlByte s.params .idle), latHi := .held b,
                           trace := s.trace ++ [.wc (ctrlByte s.params .idle), .capHi (some b)], upc := some .s5 } := by
  simp only [State.row, Upc.finish, Upc.event, State.apply, writeCtrl_highOpen_idle h hc hd]

theorem row_lowOpen (hc : s.holds .idle) (c : Nat) :
    s.row .s6 c = { s with cr := some (ctrlByte s.params .lowOpen), latLo := .opened,
                           trace := s.trace ++ [.wc (ctrlByte s.params .lowOpen)], upc := some .s7 } := by
  simp only [State.row, Upc.finish, Upc.event, State.apply, writeCtrl_idle_lowOpen h hc]

theorem row_lowClose (hc : s.holds .lowOpen) {b : Byte} (hd : s.dr = some b) (c : Nat) :
    s.row .s7 c = { s with cr := some (ctrlByte s.params .idle), latLo := .held b,
                           trace := s.trace ++ [.wc (ctrlByte s.params .idle), .capLo (some b)], upc := some .s8 } := by
  simp only [State.row, Upc.finish, Upc.event, State.apply, writeCtrl_lowOpen_idle h hc hd]

theorem row_strobe (hc : s.holds .idle) (c : Nat) :
    s.row .s9 c = { s with cr := some (ctrlByte s.params .strobe),
                           trace := s.trace ++ [.wc (ctrlByte s.params .strobe)], upc := some .s10 } := by
  simp only [State.row, Upc.finish, Upc.event, State.apply, writeCtrl_idle_strobe h hc]

theorem row_deviceWrite (hc : s.holds .strobe) {hi lo b : Byte} (hh : s.latHi = .held hi) (hl : s.latLo = .held lo)
    (hd : s.dr = some b) (c : Nat) :
    s.row .s10 c = { s with cr := some (ctrlByte s.params .idle), dev := s.devWritten (joinAddr hi lo) b,
                            trace := s.trace ++ [.wc (ctrlByte s.params .idle), .devw (some hi) (some lo) (some b)],
                            cursor := some (c + 1), upc := some (entry (c + 1)) } := by
  simp only [State.row, Upc.finish, Upc.event, State.apply, writeCtrl_strobe_idle h hc hh hl hd]

theorem row_disable (hc : s.holds .idle) (c : Nat) :
    s.row .s11 c = { s with cr := some (ctrlByte s.params .off), trace := s.trace ++ [.wc (ctrlByte s.params .off)],
                            phase := .idle, cursor := none, upc := some .s12 } := by
  simp only [State.row, Upc.finish, Upc.event, State.apply, writeCtrl_idle_off h hc]

end control

/-! ### Cursor arithmetic (R129) -/

/-- A progress cycle also latches the high byte (R124, note on S1). -/
theorem relatchDue_of_progressDue {c : Nat} (h : progressDue c = true) : relatchDue (cursorAddr c) = true := by
  simp only [progressDue, Config.progressPeriod, beq_iff_eq, relatchDue, lowByte, cursorAddr] at *
  apply BitVec.eq_of_toNat_eq
  simp
  omega

/-- The high byte is latched once every `HI_RELATCH_PERIOD` addresses (R103). -/
theorem relatchDue_iff (a : Addr) : relatchDue a = true ↔ a.toNat % Config.hiRelatchPeriod = 0 := by
  simp only [relatchDue, lowByte, beq_iff_eq, Config.hiRelatchPeriod]
  constructor
  · intro h
    have := congrArg BitVec.toNat h
    simpa using this
  · intro h
    apply BitVec.eq_of_toNat_eq
    simpa using h

/-- Where the next cycle does not latch the high byte, it is the byte of this cycle (R126). -/
theorem highByte_next {c : Nat} (h : relatchDue (cursorAddr (c + 1)) = false) :
    highByte (cursorAddr (c + 1)) = highByte (cursorAddr c) := by
  have h' : ¬ (c + 1) % 256 = 0 := fun h0 => by
    have : relatchDue (cursorAddr (c + 1)) = true := by
      rw [relatchDue_iff]
      simp only [cursorAddr, BitVec.toNat_ofNat, Config.hiRelatchPeriod]
      omega
    simp [h] at this
  simp only [highByte, cursorAddr]
  apply BitVec.eq_of_toNat_eq
  simp [Nat.shiftRight_eq_div_pow]
  omega

/-- The two latched bytes present the address they were split from (R25, R51). -/
theorem joinAddr_split (a : Addr) : joinAddr (highByte a) (lowByte a) = a := by
  apply BitVec.eq_of_toNat_eq
  simp only [joinAddr, highByte, lowByte, BitVec.toNat_append, BitVec.extractLsb'_toNat, Nat.shiftRight_eq_div_pow]
  rw [← Nat.shiftLeft_add_eq_or_of_lt (by omega), Nat.shiftLeft_eq]
  have := a.isLt
  omega

end Sys2Proof.Machine
end

