-- ==== Sys2Proof/Laws/Invariant.lean ====
section
/-! SUPPORT. What each part of a step keeps: the inputs (R38), the canonical form of `DEV`, and the sequencer's part of the
invariant (R63, R126). -/

namespace Sys2Proof.Machine

/-- The inputs of a machine, which no step changes (R30, R38). -/
abbrev State.inputs (s : State) : Params × Memory × Nat := (s.params, s.buf, s.bufSize)

/-- The bookkeeping of a row leaves the inputs (R38). -/
theorem Upc.finish_inputs (u : Upc) (c : Nat) (t : State) : (u.finish c t).inputs = t.inputs := by
  cases u <;> rfl

/-- Performing a micro-event leaves the inputs (R38). -/
theorem State.perform_inputs (e : MicroEvent) {done : State → State} (s : State) (hd : ∀ x, (done x).inputs = x.inputs) :
    (s.perform e done).inputs = s.inputs := by
  rcases State.perform_cases s e done with hp | ⟨_, _, hp⟩ <;> rw [hp]
  · rw [hd]
    simp
  · simp

/-- Taking a command leaves the inputs, if its first step does (R38). -/
theorem State.takeCommand_inputs (i : Instr) {run : State → State} (s : State) (hd : ∀ x, (run x).inputs = x.inputs) :
    (s.takeCommand i run).inputs = s.inputs := by
  rcases State.takeCommand_cases i run s with ⟨_, hp⟩ | ⟨_, _, hp⟩ <;> rw [hp]
  · rw [hd]
  · simp

/-- Taking a command with a list of micro-events leaves the inputs (R38). -/
theorem State.start_inputs (i : Instr) (events : List MicroEvent) (s : State) : (s.start i events).inputs = s.inputs := by
  refine State.takeCommand_inputs i s fun x => ?_
  unfold State.runPending
  split
  · rfl
  · exact State.perform_inputs _ { x with pending := events } fun _ => rfl

/-- No instruction changes the inputs (R30, R38). -/
theorem exec_inputs {i : Instr} {s t : State} (h : exec i s = .next t) : t.inputs = s.inputs := by
  cases i <;> obtain rfl := Host.Outcome.next.inj h
  case enable => exact State.takeCommand_inputs _ _ fun x => State.perform_inputs _ { x with pending := _ } fun _ => rfl
  case disable => exact State.takeCommand_inputs _ _ fun x => State.perform_inputs _ { x with pending := _ } fun _ => rfl
  case transfer => exact State.takeCommand_inputs _ _ fun x => State.perform_inputs _ { x with upc := _ } (Upc.finish_inputs _ _)
  case wrData => exact State.perform_inputs _ _ fun _ => rfl
  case wrCtrl => exact State.perform_inputs _ _ fun _ => rfl
  all_goals exact State.start_inputs _ _ _

/-- Taking a command keeps the device memory in canonical form, if its first step does. -/
theorem State.takeCommand_devWf (i : Instr) {run : State → State} {s : State} (hw : s.devWf)
    (hd : ∀ x : State, x.devWf → (run x).devWf) :
    (s.takeCommand i run).devWf := by
  rcases State.takeCommand_cases i run s with ⟨_, hp⟩ | ⟨_, _, hp⟩ <;> rw [hp]
  · exact hd _ hw
  · exact hw

/-- Taking a command with a list of micro-events keeps the device memory in canonical form. -/
theorem State.start_devWf (i : Instr) (events : List MicroEvent) {s : State} (hw : s.devWf) : (s.start i events).devWf := by
  refine State.takeCommand_devWf i hw fun x hx => ?_
  unfold State.runPending
  split
  · exact hx
  · exact State.perform_devWf (s := { x with pending := events }) hx _ fun _ => ⟨rfl, rfl⟩

/-- Every instruction keeps the device memory in canonical form. -/
theorem exec_devWf {i : Instr} {s t : State} (h : exec i s = .next t) (hw : s.devWf) : t.devWf := by
  cases i <;> obtain rfl := Host.Outcome.next.inj h
  case enable =>
    exact State.takeCommand_devWf _ hw fun x hx =>
      State.perform_devWf (s := { x with pending := expansion .enable s }) hx _ fun _ => ⟨rfl, rfl⟩
  case disable =>
    exact State.takeCommand_devWf _ hw fun x hx =>
      State.perform_devWf (s := { x with pending := expansion .disable s }) hx _ fun _ => ⟨rfl, rfl⟩
  case transfer =>
    exact State.takeCommand_devWf _ hw fun x hx => State.microStep_devWf (s := { x with upc := some .s0 }) hx _ _
  case wrData => exact State.perform_devWf hw _ fun _ => ⟨rfl, rfl⟩
  case wrCtrl => exact State.perform_devWf hw _ fun _ => ⟨rfl, rfl⟩
  all_goals exact State.start_devWf _ _ hw

/-- Passing a boundary does not touch the sequencer's part of the invariant. -/
theorem sequencerOk_consumeChoice (s : State) : s.consumeChoice.SequencerOk ↔ s.SequencerOk := by
  have hb : ∀ a, s.consumeChoice.bufByte a = s.bufByte a := fun a => by simp [State.bufByte, State.readBuf]
  unfold State.SequencerOk
  simp only [State.consumeChoice_upc]
  cases s.upc with
  | none => simp [State.CommandOk, State.holds]
  | some u => cases u <;> simp [State.TransferOk, State.holds, State.cycleOk, hb]

/-- Performing the head of `pending` keeps the session discipline (R63). -/
theorem sequencerOk_pending {s : State} (hp : paramsWf s.params = true) (hs : s.SequencerOk) {e rest}
    (hpe : s.pending = e :: rest) :
    State.SequencerOk { s.apply e with pending := rest } := by
  unfold State.SequencerOk at hs ⊢
  simp only [State.apply_upc]
  cases hu : s.upc with
  | some u => simp [hu, State.TransferOk, hpe] at hs
  | none =>
    simp only [hu] at hs
    obtain ⟨hc, he, hi, hcl⟩ := hs
    have ho : s.portOpen = true := by
      by_contra h; have := hcl (by simpa using h); simp [hpe] at this
    have hph : s.phase = .enabled := by
      cases h : s.phase with
      | enabled => rfl
      | idle => have := (hi ho h).1; simp [hpe] at this
    obtain ⟨c, hcr, hok⟩ := he ho hph
    refine ⟨by simp [hc], fun _ _ => ?_, fun _ h => by simp [hph] at h, fun h => by simp [ho] at h⟩
    simp only [State.apply_params]
    rw [hpe] at hok
    cases e with
    | wrData v =>
      simp only [pendingOk] at hok
      obtain ⟨rfl, hok⟩ := hok
      exact ⟨.idle, hcr, by simpa [State.apply] using hok⟩
    | progress k =>
      simp only [pendingOk] at hok
      obtain ⟨rfl, hok⟩ := hok
      exact ⟨.idle, hcr, by simpa [State.apply] using hok⟩
    | complete => cases c <;> simp [pendingOk] at hok
    | wrCtrl v =>
      simp only [State.apply]
      cases c with
      | off => simp [pendingOk] at hok
      | idle =>
        simp only [pendingOk] at hok
        rcases hok with ⟨rfl, hok⟩ | ⟨rfl, hok⟩ | ⟨rfl, h1, h2, h3, hok⟩
        · exact ⟨.highOpen, by simp [State.holds], by rw [writeCtrl_idle_highOpen hp hcr]; simpa [Latch.isHeld] using hok⟩
        · exact ⟨.lowOpen, by simp [State.holds], by rw [writeCtrl_idle_lowOpen hp hcr]; simpa [Latch.isHeld] using hok⟩
        · exact ⟨.strobe, by simp [State.holds], by rw [writeCtrl_idle_strobe hp hcr]; simpa [Latch.isHeld] using hok⟩
      | highOpen =>
        simp only [pendingOk] at hok
        obtain ⟨rfl, hd, hok⟩ := hok
        obtain ⟨b, hb⟩ := Option.isSome_iff_exists.1 hd
        exact ⟨.idle, by simp [State.holds], by rw [writeCtrl_highOpen_idle hp hcr hb]; simpa [Latch.isHeld] using hok⟩
      | lowOpen =>
        simp only [pendingOk] at hok
        obtain ⟨rfl, hd, hok⟩ := hok
        obtain ⟨b, hb⟩ := Option.isSome_iff_exists.1 hd
        exact ⟨.idle, by simp [State.holds], by rw [writeCtrl_lowOpen_idle hp hcr hb]; simpa [Latch.isHeld] using hok⟩
      | strobe =>
        simp only [pendingOk] at hok
        obtain ⟨rfl, h1, h2, hd, hok⟩ := hok
        obtain ⟨b, hb⟩ := Option.isSome_iff_exists.1 hd
        cases hh : s.latHi <;> simp [hh, Latch.isHeld] at h1
        cases hl : s.latLo <;> simp [hl, Latch.isHeld] at h2
        exact ⟨.idle, by simp [State.holds], by
          rw [writeCtrl_strobe_idle hp hcr hh hl hb]
          simpa [Latch.isHeld, hh, hl] using hok⟩

/-- The invariant at a cycle's entry (R123, R126). -/
theorem transferOk_entry {t : State} {c : Nat} (hc : c ≤ Config.cycles) (h1 : t.pending = [])
    (h2 : t.portOpen = true) (h3 : t.holds .idle) (h4 : t.phase = .enabled) (h5 : t.cursor = some c)
    (h6 : relatchDue (cursorAddr c) = false → t.latHi = .held (highByte (cursorAddr c))) :
   t.TransferOk (entry c) := by
  unfold entry
  split
  · subst_vars; exact ⟨h1, h2, h3, h4, by assumption⟩
  · have hlt : c < Config.cycles := by omega
    split
    · exact ⟨h1, h2, h3, h4, c, hlt, h5, ‹_›⟩
    · split
      · exact ⟨h1, h2, h3, h4, c, hlt, h5, ‹_›⟩
      · refine ⟨h1, h2, h3, h4, c, hlt, h5, h6 (by simpa using ‹¬ relatchDue (cursorAddr c) = true›)⟩

/-- A row of the micro-program keeps the invariant (R124, R126). -/
theorem sequencerOk_row {s : State} (hp : paramsWf s.params = true) {u : Upc} {c : Nat} (hs : s.TransferOk u)
    (hu : s.upc = some u) (hc : s.cursor = some c ∨ s.cursor = none ∧ u.readsCursor = false) :
    State.SequencerOk (u.finish c (s.apply (u.event c s))) := by
  obtain ⟨h1, h2, h3, h4⟩ := hs
  cases u with
  | s0 => exact h4.elim
  | s12 =>
    simp only [State.SequencerOk, Upc.finish, Upc.event, State.apply]
    refine ⟨h4.2, fun _ h => ?_, fun _ _ => ⟨h1, .inr h3⟩, fun h => ?_⟩
    · simp [h4.1] at h
    · simp [h2] at h
  | s11 =>
    simp only [State.SequencerOk, Upc.finish, Upc.event, State.apply]
    refine ⟨by simpa, by simpa, ?_, by simp⟩
    simp [State.holds, Upc.control]
  | s1 =>
    obtain ⟨h5, c', hlt, hcur, hok⟩ := h4
    obtain rfl : c = c' := by rcases hc with hc | hc <;> simp_all
    have hr := relatchDue_of_progressDue (c := c) hok
    simp only [State.SequencerOk, Upc.finish, Upc.event, State.apply, hr, if_true]
    exact ⟨h1, h2, h3, h5, c, hlt, hcur, hr⟩
  | s2 =>
    obtain ⟨h5, c', hlt, hcur, hok⟩ := h4
    obtain rfl : c = c' := by rcases hc with hc | hc <;> simp_all
    exact ⟨h1, h2, h3, h5, c, hlt, hcur, rfl⟩
  | s3 =>
    obtain ⟨h5, c', hlt, hcur, hok⟩ := h4
    obtain rfl : c = c' := by rcases hc with hc | hc <;> simp_all
    simp only [State.SequencerOk, Upc.finish, Upc.event, State.apply]
    rw [writeCtrl_idle_highOpen hp h3]
    exact ⟨h1, h2, rfl, h5, c, hlt, hcur, hok, rfl⟩
  | s4 =>
    obtain ⟨h5, c', hlt, hcur, hok⟩ := h4
    obtain rfl : c = c' := by rcases hc with hc | hc <;> simp_all
    simp only [State.SequencerOk, Upc.finish, Upc.event, State.apply]
    rw [writeCtrl_highOpen_idle hp h3 hok.1]
    exact ⟨h1, h2, rfl, h5, c, hlt, hcur, rfl⟩
  | s5 =>
    obtain ⟨h5, c', hlt, hcur, hok⟩ := h4
    obtain rfl : c = c' := by rcases hc with hc | hc <;> simp_all
    exact ⟨h1, h2, h3, h5, c, hlt, hcur, hok, rfl⟩
  | s6 =>
    obtain ⟨h5, c', hlt, hcur, hok⟩ := h4
    obtain rfl : c = c' := by rcases hc with hc | hc <;> simp_all
    simp only [State.SequencerOk, Upc.finish, Upc.event, State.apply]
    rw [writeCtrl_idle_lowOpen hp h3]
    exact ⟨h1, h2, rfl, h5, c, hlt, hcur, hok.1, hok.2, rfl⟩
  | s7 =>
    obtain ⟨h5, c', hlt, hcur, hok⟩ := h4
    obtain rfl : c = c' := by rcases hc with hc | hc <;> simp_all
    simp only [State.SequencerOk, Upc.finish, Upc.event, State.apply]
    rw [writeCtrl_lowOpen_idle hp h3 hok.2.1]
    exact ⟨h1, h2, rfl, h5, c, hlt, hcur, hok.1, rfl⟩
  | s8 =>
    obtain ⟨h5, c', hlt, hcur, hok⟩ := h4
    obtain rfl : c = c' := by rcases hc with hc | hc <;> simp_all
    exact ⟨h1, h2, h3, h5, c, hlt, hcur, hok.1, hok.2, rfl⟩
  | s9 =>
    obtain ⟨h5, c', hlt, hcur, hok⟩ := h4
    obtain rfl : c = c' := by rcases hc with hc | hc <;> simp_all
    simp only [State.SequencerOk, Upc.finish, Upc.event, State.apply]
    rw [writeCtrl_idle_strobe hp h3]
    exact ⟨h1, h2, rfl, h5, c, hlt, hcur, hok⟩
  | s10 =>
    obtain ⟨h5, c', hlt, hcur, hok⟩ := h4
    obtain rfl : c = c' := by rcases hc with hc | hc <;> simp_all
    simp only [State.SequencerOk, Upc.finish, Upc.event, State.apply]
    rw [writeCtrl_strobe_idle hp h3 hok.1 hok.2.1 hok.2.2]
    exact transferOk_entry (by omega) h1 h2 rfl h5 rfl fun h => by
      rw [highByte_next h]; exact hok.1

/-- The first cycle begins with its progress event (R123). -/
theorem entry_zero : entry 0 = .s1 := by decide

/-- What a command that is admitted has found (R147). -/
theorem admission_none {i : Instr} {s : State} (h : admission i s = none) :
    s.portOpen = true ∧ s.phase = wantedPhase i ∧ latchFault i s = none := by
  unfold admission at h
  split at h
  · rename_i ho
    simp only [phaseFault] at h
    split at h
    · exact ⟨ho, ‹_›, by simpa using h⟩
    · split at h <;> simp at h
  · simp at h

/-- A command taken without a fault was admitted, and its first micro-event took its effect (R83). -/
theorem State.takeCommand_perform {i : Instr} {s : State} {e : State → MicroEvent} {run done : State → State}
    (hf : (s.takeCommand i fun x => (run x).perform (e (run x)) done).fault = none) :
    admission i s = none ∧ (s.takeCommand i fun x => (run x).perform (e (run x)) done) =
      done ((run { s with word := commandWordOf i }).apply (e (run { s with word := commandWordOf i }))) := by
  rcases State.takeCommand_cases i (fun x => (run x).perform (e (run x)) done) s with ⟨ha, h⟩ | ⟨f, _, h⟩
  · rcases State.perform_cases (run { s with word := commandWordOf i }) (e (run { s with word := commandWordOf i })) done
      with h' | ⟨_, _, h'⟩
    · exact ⟨ha, h.trans h'⟩
    · rw [h, h', State.failWrite_fault] at hf
      cases hf
  · rw [h] at hf
    simp at hf

/-- Taking a command of a session keeps the discipline if its expansion does (R63, R83). -/
theorem sequencerOk_start {i : Instr} {s : State} (hp : paramsWf s.params = true) (hs : s.SequencerOk) (hb : s.Between)
    (hw : wantedPhase i = .enabled) {ev}
    (hev : ∀ c, c = Control.idle → admission i s = none → s.holds c →
      pendingOk s.params c s.latHi.isHeld s.latLo.isHeld s.dr.isSome ev)
    (hf : (s.start i ev).fault = none) : (s.start i ev).SequencerOk := by
  unfold State.start at hf ⊢
  rcases State.takeCommand_cases i (fun t => State.runPending { t with pending := ev }) s with ⟨ha, h⟩ | ⟨f, _, h⟩
  · rw [h] at hf ⊢
    obtain ⟨ho, hph, _⟩ := admission_none ha
    rw [hw] at hph
    have hs' : State.SequencerOk { s with word := commandWordOf i, pending := ev } := by
      unfold State.SequencerOk at hs ⊢
      simp only [hb.2] at hs ⊢
      obtain ⟨h1, h2, h3, h4⟩ := hs
      obtain ⟨c, hc, hok⟩ := h2 ho hph
      rw [hb.1] at hok
      have hcc : c = .idle := by cases c <;> first | rfl | simp [pendingOk] at hok
      refine ⟨h1, fun _ _ => ⟨c, hc, hev c hcc ha hc⟩, fun _ hi => ?_, fun hcl => ?_⟩
      · simp [hph] at hi
      · simp [ho] at hcl
    cases ev with
    | nil => exact hs'
    | cons e rest =>
      rw [State.runPending_cons rfl] at hf ⊢
      rcases State.perform_cases { s with word := commandWordOf i, pending := e :: rest } e
        (fun t => { t with pending := rest }) with h | ⟨_, _, h⟩
      · rw [h]
        exact sequencerOk_pending (s := { s with word := commandWordOf i, pending := e :: rest }) hp hs' rfl
      · rw [h] at hf; simp [State.failWrite] at hf
  · rw [h] at hf; simp at hf

/-- The expansion of STROBE keeps the discipline with both latches held (R110). -/
theorem pendingOk_strobe (p : Params) (b : Byte) (dr : Bool): pendingOk p .idle true true dr (strobeEvents p b) := by
  simp [strobeEvents, pendingOk]

/-- The expansion of LATCH_LOW keeps the discipline and leaves the low latch held (R100). -/
theorem pendingOk_latchLow (p : Params) (b : Byte) (hi lo dr : Bool) {rest} (h : pendingOk p .idle hi true true rest) :
    pendingOk p .idle hi lo dr (latchLowEvents p b ++ rest) := by
  simp [latchLowEvents, pendingOk, h]

/-- The expansion of LATCH_HIGH keeps the discipline and leaves the high latch held (R101). -/
theorem pendingOk_latchHigh (p : Params) (b : Byte) (hi lo dr : Bool) {rest} (h : pendingOk p .idle true lo true rest) :
    pendingOk p .idle hi lo dr (latchHighEvents p b ++ rest) := by
  simp [latchHighEvents, pendingOk, h]

/-- Every command keeps the sequencer's part of the invariant, as long as it raises no fault. -/
theorem sequencerOk_exec {i : Instr} {s t : State} (hp : paramsWf s.params = true) (hs : s.SequencerOk) (hb : s.Between)
    (hne : (∀ v, i ≠ .wrData v) ∧ ∀ v, i ≠ .wrCtrl v)
    (h : exec i s = .next t) (hf : t.fault = none) (ht : t.aborted = false) : t.SequencerOk := by
  cases i with
  | wrData v => exact absurd rfl (hne.1 v)
  | wrCtrl v => exact absurd rfl (hne.2 v)
  | latchLow b =>
    obtain rfl : _ = t := by simpa [exec, execLatchLow] using h
    refine sequencerOk_start hp hs hb rfl (fun c hc _ _ => ?_) hf
    subst hc
    have := pendingOk_latchLow s.params b s.latHi.isHeld s.latLo.isHeld s.dr.isSome (rest := []) (by simp [pendingOk])
    simpa [expansion] using this
  | latchHigh b =>
    obtain rfl : _ = t := by simpa [exec, execLatchHigh] using h
    refine sequencerOk_start hp hs hb rfl (fun c hc _ _ => ?_) hf
    subst hc
    have := pendingOk_latchHigh s.params b s.latHi.isHeld s.latLo.isHeld s.dr.isSome (rest := []) (by simp [pendingOk])
    simpa [expansion] using this
  | strobe b =>
    obtain rfl : _ = t := by simpa [exec, execStrobe] using h
    refine sequencerOk_start hp hs hb rfl (fun c hc ha _ => ?_) hf
    subst hc
    have := (admission_none ha).2.2
    simp [latchFault] at this
    rw [this.1, this.2]
    exact pendingOk_strobe _ _ _
  | cycle a =>
    obtain rfl : _ = t := by simpa [exec, execCycle] using h
    refine sequencerOk_start hp hs hb rfl (fun c hc ha _ => ?_) hf
    subst hc
    have := (admission_none ha).2.2
    have hk : ∀ (lo dr : Bool), pendingOk s.params .idle s.latHi.isHeld lo dr
        ((if relatchDue a then latchHighEvents s.params (highByte a) else []) ++
          latchLowEvents s.params (lowByte a) ++ strobeEvents s.params (s.bufByte a)) := by
      intro lo dr
      split
      · rw [List.append_assoc]
        exact pendingOk_latchHigh _ _ _ _ _ (pendingOk_latchLow _ _ _ _ _ (pendingOk_strobe _ _ _))
      · rw [List.nil_append]
        have hh : s.latHi.isHeld = true := by
          rename_i hr
          simpa [latchFault, hr] using this
        rw [hh]
        exact (pendingOk_latchLow _ _ _ _ _ (pendingOk_strobe _ _ _))
    simp only [expansion, cycleEvents]
    split
    · simpa [pendingOk] using hk _ _
    · simpa using hk _ _
  | enable =>
    obtain rfl := Host.Outcome.next.inj h
    obtain ⟨ha, h⟩ := State.takeCommand_perform (e := fun _ => .wrCtrl (ctrlByte s.params .idle))
      (run := fun x => { x with pending := expansion .enable s }) hf
    rw [h]
    unfold State.SequencerOk at hs ⊢
    simp only [hb.2, State.apply_upc] at hs ⊢
    exact ⟨by simpa using hs.1, fun _ _ => ⟨.idle, by simp [State.holds, State.apply], by simp [pendingOk]⟩, by simp,
      by simp [(admission_none ha).1]⟩
  | disable =>
    obtain rfl := Host.Outcome.next.inj h
    obtain ⟨ha, h⟩ := State.takeCommand_perform (e := fun _ => .wrCtrl (ctrlByte s.params .off))
      (run := fun x => { x with pending := expansion .disable s }) hf
    rw [h]
    unfold State.SequencerOk at hs ⊢
    simp only [hb.2, State.apply_upc] at hs ⊢
    exact ⟨by simpa using hs.1, by simp, by simp [State.holds, State.apply], by simp [(admission_none ha).1]⟩
  | transfer =>
    obtain rfl := Host.Outcome.next.inj h
    obtain ⟨ha, h⟩ := State.takeCommand_perform (e := Upc.s0.event 0) (run := fun x => { x with upc := some .s0 }) hf
    refine Eq.mpr (congrArg State.SequencerOk h) ?_
    unfold State.SequencerOk
    simp only [Upc.finish, entry_zero]
    exact ⟨by simpa using hb.1, by simpa using (admission_none ha).1,
      by simp [State.holds, Upc.event, State.apply, Upc.control], rfl, 0, by decide, rfl, by simp only [State.cycleOk]; decide⟩

end Sys2Proof.Machine
end

