-- ==== Sys2Proof/Laws/Runs.lean ====
section
/-! SUPPORT. Runs of several steps: chaining steps, one step of TRANSFER's micro-program, and one whole cycle of it
(R124), which a proof about TRANSFER repeats 65536 times. -/

namespace Sys2Proof.Machine

/-! ### Steps in a row -/

/-- Without choices a boundary uses none up. -/
theorem consumeChoice_of_nil {t : State} (h : t.choices = []) : t.consumeChoice = t := by
  cases t; simp_all [State.consumeChoice]

/-- A running machine without choices takes its own step (R83). -/
theorem step_proceeds {s : State} (hr : s.Running) (hch : s.choices = []) : step s = onNext State.consumeChoice (advance s) := by
  show stepOnce s = _
  unfold stepOnce; simp [stopped_of_running hr, hch, State.portRefuses]

/-- The first of several steps. -/
theorem steps_succ {s t : State} {k : Nat} (h : step s = .next t) : steps (k + 1) s = steps k t := by
  rw [steps, h]

/-- Steps in a row add up. -/
theorem steps_add {s t : State} {j k : Nat} (h : steps j s = .next t) : steps (j + k) s = steps k t := by
  induction j generalizing s with
  | zero =>
    have : s = t := by injection h
    rw [this, Nat.zero_add]
  | succ j ih =>
    rw [steps] at h
    cases hst : step s with
    | next s' =>
      rw [hst] at h
      rw [show j + 1 + k = (j + k) + 1 by omega, steps_succ hst]
      exact ih h
    | fault r => rw [hst] at h; cases h
    | refused r => rw [hst] at h; cases h

/-! ### The micro-program -/

/-- The machine runs the micro-program's state `u` with the cursor at `c`, and the port accepts every write. -/
structure State.At (s : State) (u : Upc) (c : Nat) : Prop where
  params : paramsWf s.params = true
  running : s.Running
  pending : s.pending = []
  upc : s.upc = some u
  cursor : s.cursor = some c
  choices : s.choices = []

/-- One step of the micro-program is the row of its state (R124). -/
theorem step_at {s : State} {u : Upc} {c : Nat} (h : s.At u c) : step s = .next (s.row u c) := by
  have hf : s.writeFails = false := by simp [State.writeFails, h.choices]
  rw [step_proceeds h.running h.choices]
  simp only [advance, h.pending, h.upc, State.runMicroprogram, h.cursor, onNext, State.microStep, State.perform_ok hf]
  rw [consumeChoice_of_nil]
  cases u <;> simpa [Upc.finish] using h.choices

/-- The first of several steps, in the micro-program. -/
theorem steps_at {s t : State} {u : Upc} {c k : Nat} (h : s.At u c) (ht : s.row u c = t) :
    steps (k + 1) s = steps k t := by
  rw [← ht]
  exact steps_succ (step_at h)

/-- The events of a cycle from the low byte on: the low latch, the payload and the strobe (R120 steps 3 to 5). -/
def lowStrobeEvents (p : Params) (a : Addr) (d : Byte) : List Event :=
  [.wd (lowByte a), .wc (ctrlByte p .lowOpen), .wc (ctrlByte p .idle), .capLo (some (lowByte a)),
   .wd d, .wc (ctrlByte p .strobe), .wc (ctrlByte p .idle), .devw (some (highByte a)) (some (lowByte a)) (some d)]

/-- S5 to S10: the low latch, the payload and the device write (R124). -/
theorem steps_lowStrobe {s : State} {c : Nat} (h : s.At .s5 c) (hcr : s.holds .idle)
    (hh : s.latHi = .held (highByte (cursorAddr c))) :
    steps 6 s = .next { s with
      dr := some (s.bufByte (cursorAddr c)), cr := some (ctrlByte s.params .idle)
      latLo := .held (lowByte (cursorAddr c))
      dev := s.devWritten (cursorAddr c) (s.bufByte (cursorAddr c))
      trace := s.trace ++ lowStrobeEvents s.params (cursorAddr c) (s.bufByte (cursorAddr c))
      cursor := some (c + 1), upc := some (entry (c + 1)) } := by
  obtain ⟨hp, hr, hpe, hu, hc, hch⟩ := h
  refine Eq.trans (steps_at ⟨hp, hr, hpe, hu, hc, hch⟩ (row_lowData _ _)) ?_
  refine Eq.trans (steps_at ⟨hp, hr, hpe, rfl, hc, hch⟩ (row_lowOpen ?_ ?_ _)) ?_
  · exact hp
  · exact hcr
  refine Eq.trans (steps_at ⟨hp, hr, hpe, rfl, hc, hch⟩ (row_lowClose ?_ rfl rfl _)) ?_
  · exact hp
  refine Eq.trans (steps_at ⟨hp, hr, hpe, rfl, hc, hch⟩ (row_payload _ _)) ?_
  refine Eq.trans (steps_at ⟨hp, hr, hpe, rfl, hc, hch⟩ (row_strobe ?_ rfl _)) ?_
  · exact hp
  refine Eq.trans (steps_at ⟨hp, hr, hpe, rfl, hc, hch⟩ (row_deviceWrite (hi := highByte (cursorAddr c)) ?_ rfl ?_ rfl rfl _)) ?_
  · exact hp
  · exact hh
  simp only [steps, lowStrobeEvents, List.append_assoc, List.cons_append, List.nil_append, joinAddr_split,
    State.devWritten, State.devAddr, State.devCell, State.devKnown, State.bufByte, State.readBuf]

/-- The events of latching the high byte (R120 step 2). -/
def highEvents (p : Params) (a : Addr) : List Event :=
  [.wd (highByte a), .wc (ctrlByte p .highOpen), .wc (ctrlByte p .idle), .capHi (some (highByte a))]

/-- S2 to S4: the high latch (R124). -/
theorem steps_high {s : State} {c : Nat} (h : s.At .s2 c) (hcr : s.holds .idle) :
    steps 3 s = .next { s with
      dr := some (highByte (cursorAddr c)), cr := some (ctrlByte s.params .idle)
      latHi := .held (highByte (cursorAddr c))
      trace := s.trace ++ highEvents s.params (cursorAddr c)
      upc := some .s5 } := by
  obtain ⟨hp, hr, hpe, hu, hc, hch⟩ := h
  refine Eq.trans (steps_at ⟨hp, hr, hpe, hu, hc, hch⟩ (row_highData _ _)) ?_
  refine Eq.trans (steps_at ⟨hp, hr, hpe, rfl, hc, hch⟩ (row_highOpen ?_ ?_ _)) ?_
  · exact hp
  · exact hcr
  refine Eq.trans (steps_at ⟨hp, hr, hpe, rfl, hc, hch⟩ (row_highClose ?_ rfl rfl _)) ?_
  · exact hp
  simp only [steps, highEvents, List.append_assoc, List.cons_append, List.nil_append]

/-- The events of one cycle (R120). -/
def cycleTrace (p : Params) (a : Addr) (d : Byte) : List Event :=
  (if progressDue a.toNat then [.progress (progressCount a.toNat)] else []) ++
  (if relatchDue a then highEvents p a else []) ++ lowStrobeEvents p a d

/-- How many steps a cycle takes: 6, 9 or 10 (R128, R179). -/
def cycleSteps (c : Nat) : Nat :=
  (if progressDue c then 1 else 0) + (if relatchDue (cursorAddr c) then 3 else 0) + 6

/-- One whole cycle of TRANSFER, from its entry state to the next cycle's (R123, R124). -/
theorem steps_cycle {s : State} {c : Nat} (hlt : c < 65536) (h : s.At (entry c) c) (hcr : s.holds .idle)
    (hh : relatchDue (cursorAddr c) = false → s.latHi = .held (highByte (cursorAddr c))) :
    steps (cycleSteps c) s = .next { s with
      dr := some (s.bufByte (cursorAddr c)), cr := some (ctrlByte s.params .idle)
      latLo := .held (lowByte (cursorAddr c)), latHi := .held (highByte (cursorAddr c))
      dev := s.devWritten (cursorAddr c) (s.bufByte (cursorAddr c))
      trace := s.trace ++ cycleTrace s.params (cursorAddr c) (s.bufByte (cursorAddr c))
      cursor := some (c + 1), upc := some (entry (c + 1)) } := by
  have hto : (cursorAddr c).toNat = c := by simp [cursorAddr]; omega
  have hne : c ≠ Config.cycles := by simp [Config.cycles]; omega
  obtain ⟨hp, hr, hpe, hu, hc, hch⟩ := h
  unfold cycleSteps cycleTrace
  rw [hto]
  cases hpd : progressDue c with
  | true =>
    have hrl := relatchDue_of_progressDue hpd
    simp only [hrl, if_true]
    have hu' : s.upc = some .s1 := by rw [hu]; simp [entry, hne, hpd]
    refine Eq.trans (steps_at ⟨hp, hr, hpe, hu', hc, hch⟩ (row_progress _ _)) ?_
    simp only [hrl, if_true]
    refine Eq.trans (steps_add (j := 3) (k := 6) (steps_high ⟨hp, hr, hpe, rfl, hc, hch⟩ hcr)) ?_
    refine Eq.trans (steps_lowStrobe ⟨hp, hr, hpe, rfl, hc, hch⟩ rfl rfl) ?_
    simp only [List.append_assoc]
    rfl
  | false =>
    cases hrl : relatchDue (cursorAddr c) with
    | true =>
      simp only [if_true, Bool.false_eq_true, if_false, List.nil_append, Nat.zero_add]
      have hu' : s.upc = some .s2 := by rw [hu]; simp [entry, hne, hpd, hrl]
      refine Eq.trans (steps_add (steps_high ⟨hp, hr, hpe, hu', hc, hch⟩ hcr)) ?_
      refine Eq.trans (steps_lowStrobe ⟨hp, hr, hpe, rfl, hc, hch⟩ rfl rfl) ?_
      simp only [List.append_assoc]
      rfl
    | false =>
      simp only [Bool.false_eq_true, if_false, List.nil_append, Nat.zero_add]
      have hu' : s.upc = some .s5 := by rw [hu]; simp [entry, hne, hpd, hrl]
      refine Eq.trans (steps_lowStrobe ⟨hp, hr, hpe, hu', hc, hch⟩ hcr (hh hrl)) ?_
      rw [hh hrl]

end Sys2Proof.Machine
end

