-- ==== Sys2Proof/Machine/Assembler.lean ====
section
/-! DEFINITION. The assembler syntax the spec gives its commands (R70): one command a line, `MNEMONIC [operand]`, decimal and `0x`
numbers, `;` comments, the source's lower-case spellings, operands out of range refused; and how micro-ops print. -/

namespace Sys2Proof.Machine

/-- A space or a tab. -/
def isBlank (c : Char) : Bool := c == ' ' || c == '\t'

/-- A line without its comment (R70). -/
def stripComment (line : List Char) : List Char := line.takeWhile (· != ';')

/-- The words of a line, `current` being the word read so far, reversed. -/
def wordsFrom (current : List Char) : List Char → List (List Char)
  | [] => if current.isEmpty then [] else [current.reverse]
  | c :: cs =>
    if isBlank c then
      if current.isEmpty then wordsFrom [] cs else current.reverse :: wordsFrom [] cs
    else wordsFrom (c :: current) cs

/-- The value of a hexadecimal digit, capital or small. -/
def hexDigit (c : Char) : Option Nat :=
  if 48 ≤ c.toNat ∧ c.toNat ≤ 57 then some (c.toNat - 48)
  else if 65 ≤ c.toNat ∧ c.toNat ≤ 70 then some (c.toNat - 55)
  else if 97 ≤ c.toNat ∧ c.toNat ≤ 102 then some (c.toNat - 87)
  else none

/-- The value of a string of hexadecimal digits, continuing from `acc`. -/
def hexFrom : (acc : Nat) → List Char → Option Nat
  | acc, [] => some acc
  | acc, c :: cs =>
    match hexDigit c with
    | some d => hexFrom (16 * acc + d) cs
    | none => none

/-- An operand: a decimal or a `0x` hexadecimal number (R70). -/
def parseNumber (cs : List Char) : Option Nat :=
  match cs with
  | '0' :: 'x' :: d :: ds => hexFrom 0 (d :: ds)
  | _ => parseDecimal cs

/-- The operand a mnemonic takes, with the instruction it makes (R65). -/
inductive OperandForm where
  /-- No operand. -/
  | none (i : Instr)
  /-- A byte operand. -/
  | byte (mk : Byte → Instr)
  /-- An address operand. -/
  | addr (mk : Addr → Instr)

/-- The mnemonics of R65. -/
def mnemonicForm (m : List Char) : Option OperandForm :=
  if m = "ENABLE".toList then some (.none .enable)
  else if m = "DISABLE".toList then some (.none .disable)
  else if m = "LATCH_LOW".toList then some (.byte .latchLow)
  else if m = "LATCH_HIGH".toList then some (.byte .latchHigh)
  else if m = "STROBE".toList then some (.byte .strobe)
  else if m = "CYCLE".toList then some (.addr .cycle)
  else if m = "TRANSFER".toList then some (.none .transfer)
  else none

/-- The source's lower-case spellings, without their parentheses (R70). -/
def sourceForm (m : List Char) : Option OperandForm :=
  if m = "enable".toList then some (.none .enable)
  else if m = "disable".toList then some (.none .disable)
  else if m = "latch_low".toList then some (.byte .latchLow)
  else if m = "latch_high".toList then some (.byte .latchHigh)
  else if m = "strobe".toList then some (.byte .strobe)
  else none

/-- An instruction from a mnemonic's form and its operand, refused when the operand is missing, superfluous or out of range
(R70). -/
def assembleForm (f : OperandForm) (operand : Option Nat) : Option Instr :=
  match f, operand with
  | .none i, .none => some i
  | .byte mk, some n => if n < 256 then some (mk (BitVec.ofNat 8 n)) else none
  | .addr mk, some n => if n < 65536 then some (mk (BitVec.ofNat 16 n)) else none
  | _, _ => none

/-- A call in the source's spelling, `name(operand)` or `name()` (R70). -/
def assembleCall (w : List Char) : Option Instr :=
  match sourceForm (w.takeWhile (· != '(')), w.dropWhile (· != '(') with
  | some f, ['(', ')'] => assembleForm f none
  | some f, '(' :: rest =>
    if rest.getLast? = some ')' then
      match parseNumber rest.dropLast with
      | some n => assembleForm f (some n)
      | none => none
    else none
  | _, _ => none

/-- What a line assembles to. -/
inductive AsmLine where
  /-- Nothing: blank or a comment. -/
  | empty
  /-- A command. -/
  | instr (i : Instr)
  /-- The line is refused. -/
  | refused
deriving DecidableEq, Repr

/-- An assembled line from an optional instruction. -/
def asmOf : Option Instr → AsmLine
  | some i => .instr i
  | none => .refused

/-- Assembling one line (R70). -/
def assembleLine (line : List Char) : AsmLine :=
  match wordsFrom [] (stripComment line) with
  | [] => .empty
  | [m] =>
    match mnemonicForm m with
    | some f => asmOf (assembleForm f none)
    | none => asmOf (assembleCall m)
  | [m, x] =>
    match mnemonicForm m, parseNumber x with
    | some f, some n => asmOf (assembleForm f (some n))
    | _, _ => .refused
  | _ => .refused

/-- A hexadecimal digit's character, as micro-ops print it. -/
def hexChar (n : Nat) : Char := if n < 10 then Char.ofNat (48 + n) else Char.ofNat (55 + n)

/-- A byte as `0xVV` (R70). -/
def printByte (b : Byte) : List Char := ['0', 'x', hexChar (b.toNat / 16), hexChar (b.toNat % 16)]

/-- How a micro-op prints (R70); other micro-events have no assembler text. -/
def printMicroOp : MicroEvent → Option (List Char)
  | .wrData v => some ("WR_DATA ".toList ++ printByte v)
  | .wrCtrl v => some ("WR_CTRL ".toList ++ printByte v)
  | _ => none

end Sys2Proof.Machine
end

