-- ==== Sys2Proof/Tests/Slice0.lean ====
section
/-! SUPPORT. The model's own tests. Expected values come from the spec: words written out from R64 to R68, vectors V<n> and
examples S<n> of 95_test_vectors.md. Then, for every statement with hypotheses, states and operands that meet them
(`test_hyps_…`). -/

namespace Sys2Proof.Tests

open Sys2Proof Sys2Proof.Machine

/-- A part of the next state, if there is one. -/
def after {α : Type} (o : Host.Outcome State Fault Refusal) (f : State → α) : Option α :=
  match o with
  | .next s => some (f s)
  | _ => none

/-- In a session, `C_IDLE` on the lines, 0x1234 latched; `N = 256`, `BUF[0x34] = 0x56` (the state before V24). -/
def session : State :=
  { State.reset with
    phase := .enabled, cr := some 0x07, dr := some 0x12, latHi := .held 0x12, latLo := .held 0x34
    bufSize := 256, buf := [(0x34, 0x56)] }

/-- Outside a session, after one: the state before V12. -/
def outside : State := { session with phase := .idle, cr := some 0x06 }

/-- The port is closed. -/
def closed : State := { State.reset with portOpen := false }

/-- Port writes can fail, and the next one does (V10). -/
def failing : State :=
  { session with params := { Params.reference with portWriteFallible := true }, choices := [.writeFails] }

/-- The host issues one word. -/
def issue (w : CommandWord) (s : State) : State := { s with hostMoves := [.command w] }

/-- In TRANSFER, at state `u` of cycle `c`. -/
def transferring (u : Upc) (c : Nat) (s : State) : State := { s with upc := some u, cursor := some c }

/-! ### Encodings, bit by bit -/

/-- R65: `OP` 0x1, `RSV` 0, `IMM16` 0. -/
theorem test_decode_enable : decodeCommand 0b000100000000000000000000 = .instr .enable := by decide

/-- R65: `OP` 0x2. -/
theorem test_decode_disable : decodeCommand 0b001000000000000000000000 = .instr .disable := by decide

/-- R65: `OP` 0x3, `b` = 0xFF (V51). -/
theorem test_decode_latchLow : decodeCommand 0b001100000000000011111111 = .instr (.latchLow 0xFF) := by decide

/-- R65: `OP` 0x4, `b` = 0x81. -/
theorem test_decode_latchHigh : decodeCommand 0b010000000000000010000001 = .instr (.latchHigh 0x81) := by decide

/-- R65: `OP` 0x5, `b` = 0xAB (V24). -/
theorem test_decode_strobe : decodeCommand 0b010100000000000010101011 = .instr (.strobe 0xAB) := by decide

/-- R65: `OP` 0x6, `a` = 0x0401 (V33). -/
theorem test_decode_cycle : decodeCommand 0b011000000000010000000001 = .instr (.cycle 0x0401) := by decide

/-- R65: `OP` 0x7. -/
theorem test_decode_transfer : decodeCommand 0b011100000000000000000000 = .instr .transfer := by decide

/-- R68: `SEL` 0, `V` = 0xAB (V54). -/
theorem test_decode_wrData : decodeMicro 0b010101011 = .wrData 0xAB := by decide

/-- R68: `SEL` 1, `V` = 0x0F (V54). -/
theorem test_decode_wrCtrl : decodeMicro 0b100001111 = .wrCtrl 0x0F := by decide

/-- R67, V46 to V50 and V53: one word and more for each illegal case. -/
theorem test_decode_illegal :
    decodeCommand 0x000000 = .illegal .reservedOpcode ∧ decodeCommand 0x800000 = .illegal .reservedOpcode ∧
    decodeCommand 0x8FFFFF = .illegal .reservedOpcode ∧ decodeCommand 0xF00000 = .illegal .reservedOpcode ∧
    decodeCommand 0x110000 = .illegal .reservedBits ∧ decodeCommand 0x6F0000 = .illegal .reservedBits ∧
    decodeCommand 0x100001 = .illegal .operandNotZero ∧ decodeCommand 0x200080 = .illegal .operandNotZero ∧
    decodeCommand 0x700001 = .illegal .operandNotZero ∧ decodeCommand 0x300100 = .illegal .byteOperandTooWide ∧
    decodeCommand 0x40FF00 = .illegal .byteOperandTooWide ∧ decodeCommand 0x508000 = .illegal .byteOperandTooWide := by decide

/-- R65, R68: the table's words as the host numbers them, and a word too wide for its format. -/
theorem test_decode_table :
    decodeTableWord 24 0x60FFFF = some (.cycle 0xFFFF) ∧ decodeTableWord 16 0x10F = some (.wrCtrl 0x0F) ∧
    decodeTableWord 16 0x0AB = some (.wrData 0xAB) ∧ decodeTableWord 16 0x20F = none ∧
    decodeTableWord 24 0x110000 = none := by decide

/-! ### Well-formedness -/

/-- R63: every named control state's byte is well formed, the byte of another vector is not. -/
theorem test_wellformed :
    Instr.wf Params.reference (.wrCtrl 0x0F) = true ∧ Instr.wf Params.reference (.wrCtrl 0x0E) = false ∧
    Instr.wf Params.reference (.wrCtrl 0xFF) = false := by decide

/-- R61, R49, R11: parameters that are refused: two named states on one byte, no address line, 17 of them, a size that is no
power of two. -/
theorem test_parameters_refused :
    paramsWf Params.reference = true ∧
    paramsWf { Params.reference with physMap := Params.reference.physMap.set 0x7 0x06 } = false ∧
    paramsWf { Params.reference with devAddrBits := 0 } = false ∧
    paramsWf { Params.reference with devAddrBits := 17 } = false ∧ bufSizeOk 0 = false ∧ bufSizeOk 3 = false ∧
    bufSizeOk 65536 = true := by decide

/-- R70: lines that assemble, and lines that are refused: an operand out of range, one missing, one too many, no mnemonic. -/
theorem test_assembler :
    assembleLine "LATCH_LOW 0xFF ; the low byte".toList = .instr (.latchLow 0xFF) ∧
    assembleLine "CYCLE 65535".toList = .instr (.cycle 0xFFFF) ∧ assembleLine "enable()".toList = .instr .enable ∧
    assembleLine "; nothing".toList = .empty ∧ assembleLine "STROBE 256".toList = .refused ∧
    assembleLine "CYCLE 65536".toList = .refused ∧ assembleLine "STROBE".toList = .refused ∧
    assembleLine "ENABLE 1".toList = .refused ∧ assembleLine "WR_DATA 1".toList = .refused ∧
    printMicroOp (.wrData 0xA5) = some "WR_DATA 0xA5".toList := by decide

/-! ### One step of each instruction -/

/-- V12: ENABLE from `C_OFF`. -/
theorem test_enable : after (exec .enable outside) (fun t => (t.cr, t.phase, t.latHi, t.latLo, t.trace)) =
    some (some 0x07, .enabled, .held 0x12, .held 0x34, [.wc 0x07]) := by decide

/-- V11, V14, V16: the fresh port's unknown edges; the faults. -/
theorem test_enable_cases :
    after (exec .enable State.reset) (fun t => (t.cr, t.phase, t.latHi, t.latLo)) = some (some 0x07, .enabled, .unknown, .unknown) ∧
    after (exec .enable session) (fun t => (t.fault.map (·.reason), t.cr, t.trace)) = some (some .alreadyEnabled, some 0x07, []) ∧
    after (exec .enable closed) (fun t => t.fault.map (·.reason)) = some (some .portNotOpen) := by decide

/-- V13: DISABLE. -/
theorem test_disable : after (exec .disable session) (fun t => (t.cr, t.phase, t.latHi, t.trace)) =
    some (some 0x06, .idle, .held 0x12, [.wc 0x06]) := by decide

/-- V15. -/
theorem test_disable_fault : after (exec .disable State.reset) (fun t => (t.fault.map (·.reason), t.trace)) =
    some (some .notEnabled, []) := by decide

/-- V18: LATCH_LOW writes the data register first; two control writes remain. -/
theorem test_latchLow : after (exec (.latchLow 0x99) session) (fun t => (t.dr, t.trace, t.pending)) =
    some (some 0x99, [.wd 0x99], [.wrCtrl 0x05, .wrCtrl 0x07]) := by decide

/-- V22. -/
theorem test_latchLow_fault : after (exec (.latchLow 0x34) outside) (fun t => (t.fault.map (·.reason), t.dr)) =
    some (some .notEnabled, some 0x12) := by decide

/-- V19: LATCH_HIGH opens the other latch. -/
theorem test_latchHigh : after (exec (.latchHigh 0x99) session) (fun t => (t.dr, t.trace, t.pending)) =
    some (some 0x99, [.wd 0x99], [.wrCtrl 0x03, .wrCtrl 0x07]) := by decide

/-- V24: STROBE writes the byte first, and the pulse remains. -/
theorem test_strobe : after (exec (.strobe 0xAB) session) (fun t => (t.dr, t.trace, t.pending)) =
    some (some 0xAB, [.wd 0xAB], [.wrCtrl 0x0F, .wrCtrl 0x07]) := by decide

/-- V28, V29: UnlatchedAddress, after the phase check. -/
theorem test_strobe_faults :
    after (exec (.strobe 0x55) { session with latHi := .unknown }) (fun t => (t.fault.map (·.reason), t.trace)) =
      some (some (.unlatchedAddress .unknown (.held 0x34)), []) ∧
    after (exec (.strobe 0x55) State.reset) (fun t => t.fault.map (·.reason)) = some (some .notEnabled) := by decide

/-- V31, V32, V33: the first micro-event of CYCLE, and what remains. -/
theorem test_cycle :
    after (exec (.cycle 0x0400) session) (fun t => (t.trace, t.pending.length)) = some ([.progress 1], 9) ∧
    after (exec (.cycle 0x0100) session) (fun t => (t.trace, t.pending.length)) = some ([.wd 0x01], 8) ∧
    after (exec (.cycle 0x1234) session) (fun t => (t.trace, t.pending)) =
      some ([.wd 0x34], [.wrCtrl 0x05, .wrCtrl 0x07, .wrData 0x56, .wrCtrl 0x0F, .wrCtrl 0x07]) := by decide

/-- V38, V39: an unlatched high byte matters only where the cycle does not latch it. -/
theorem test_cycle_latch :
    after (exec (.cycle 0x0201) { session with latHi := .unknown }) (fun t => t.fault.map (·.reason)) =
      some (some (.unlatchedAddress .unknown (.held 0x34))) ∧
    after (exec (.cycle 0x0200) { session with latHi := .unknown }) (fun t => (t.fault, t.trace)) =
      some (none, [.wd 0x02]) := by decide

/-- V41: TRANSFER enables and stands at S1 of cycle 0; V42. -/
theorem test_transfer :
    after (exec .transfer outside) (fun t => (t.cr, t.phase, t.upc)) = some (some 0x07, .enabled, some .s1) ∧
    after (exec .transfer outside) (fun t => (t.cursor, t.trace)) = some (some 0, [.wc 0x07]) ∧
    after (exec .transfer session) (fun t => t.fault.map (·.reason)) = some (some .alreadyEnabled) := by decide

/-- The state sequence below V45: the entry states, and the step that ends cycle 65535. -/
theorem test_transfer_entries :
    entry 0 = .s1 ∧ entry 1 = .s5 ∧ entry 256 = .s2 ∧ entry 1024 = .s1 ∧ entry 65535 = .s5 ∧ entry 65536 = .s11 ∧
    after (step (transferring .s10 65535 { session with cr := some 0x0F })) (fun t => (t.upc, t.cursor)) =
      some (some .s11, some 65536) := by decide

/-- V1: WR_DATA; a failing one. -/
theorem test_wrData :
    after (exec (.wrData 0x34) session) (fun t => (t.dr, t.cr, t.latLo, t.trace)) =
      some (some 0x34, some 0x07, .held 0x34, [.wd 0x34]) ∧
    after (exec (.wrData 0x34) failing) (fun t => (t.dr, t.fault.map (·.reason), t.trace)) =
      some (none, some (.portWriteFailed (.wrData 0x34)), []) := by decide

/-- V2, V3, V9, V10: the latches' reactions, and a failing write. -/
theorem test_wrCtrl_latches :
    after (exec (.wrCtrl 0x05) session) (fun t => (t.latLo, t.latHi, t.trace)) = some (.opened, .held 0x12, [.wc 0x05]) ∧
    after (exec (.wrCtrl 0x07) { session with cr := some 0x05, latLo := .opened, dr := some 0x99 })
      (fun t => (t.latLo, t.latHi, t.trace)) = some (.held 0x99, .held 0x12, [.wc 0x07, .capLo (some 0x99)]) ∧
    after (exec (.wrCtrl 0x07) session) (fun t => (t.latLo, t.latHi, t.trace)) = some (.held 0x34, .held 0x12, [.wc 0x07]) ∧
    after (exec (.wrCtrl 0x05) failing) (fun t => (t.cr, t.latLo, t.latHi, t.fault.map (·.reason))) =
      some (none, .unknown, .unknown, some (.portWriteFailed (.wrCtrl 0x05))) := by decide

/-- V4, V5, V8, V30: the device's reactions. -/
theorem test_wrCtrl_device :
    after (exec (.wrCtrl 0x0F) session) (fun t => (t.dev, t.trace)) = some ([], [.wc 0x0F]) ∧
    after (exec (.wrCtrl 0x07) { session with cr := some 0x0F, dr := some 0xAB }) (fun t => (t.dev, t.trace)) =
      some ([(0x1234, 0xAB)], [.wc 0x07, .devw (some 0x12) (some 0x34) (some 0xAB)]) ∧
    after (exec (.wrCtrl 0x06) { session with cr := some 0x0E }) (fun t => (t.dev, t.trace)) = some ([], [.wc 0x06]) ∧
    after (exec (.wrCtrl 0x07)
        { session with cr := some 0x0F, dr := some 0xAB, params := { Params.reference with devAddrBits := 12 } })
      (fun t => (t.dev, t.trace)) =
      some ([(0x234, 0xAB)], [.wc 0x07, .devw (some 0x12) (some 0x34) (some 0xAB)]) := by decide

/-! ### The step and the host -/

/-- V46, V68: an illegal word faults with the port closed; after it nothing steps. -/
theorem test_illegal_word :
    after (step (issue 0x000000 closed)) (fun t => (t.fault.map (·.reason), after (step t) fun _ => ())) =
      some (some .illegalCommand, none) := by decide

/-- V65: the state right after S9 of cursor 0x1234, where the host aborts. -/
def abortedTransfer : State :=
  { transferring .s10 0x1234 { session with cr := some 0x0F } with choices := [.abort], trace := [.wc 0x0F] }

/-- V65: an abort right after S9 of cursor 0x1234. -/
theorem test_abort :
    after (step abortedTransfer) (fun t => (t.aborted, t.dr, t.cr)) = some (true, none, none) ∧
    after (step abortedTransfer) (fun t => (t.latLo, t.latHi, t.trace)) = some (.unknown, .unknown, [.wc 0x0F]) := by decide

/-- The host's two questions on one word of each format: the placed word is what the first step after reset runs. -/
theorem test_placed_word :
    after (step (State.reset.withFetchWord 16 0x0AB)) (fun t => (t.dr, t.trace)) = some (some 0xAB, [.wd 0xAB]) ∧
    after (step (State.reset.withFetchWord 24 0x700000)) (fun t => (t.cr, t.upc)) = some (some 0x07, some .s1) := by decide

/-- S1 to S4, V55 to V59: the size rule. -/
theorem test_size :
    sizeRule "1".toList = some 1024 ∧ sizeRule "64".toList = some 65536 ∧ sizeRule "128".toList = some 128 ∧
    sizeRule "65536".toList = some 65536 ∧ sizeRule "0128".toList = some 128 ∧ sizeRule "100".toList = none ∧
    sizeRule "65".toList = none ∧ sizeRule "3".toList = none ∧ sizeRule "65537".toList = none ∧
    sizeRule "131072".toList = none ∧ sizeRule "64k".toList = none ∧ sizeRule "0".toList = none ∧
    sizeRule "+128".toList = none ∧ sizeRule "".toList = none ∧ sizeRule " 128".toList = none ∧
    sizeRule "0x100".toList = none := by decide

/-- S5, S9, V60, V63: the buffer, and exits before the port opens. -/
theorem test_boot :
    (boot { port := none, size := some "1".toList, file := .contents [1, 2, 3], portOpens := true }).buf =
      [(0, 1), (1, 2), (2, 3)] ∧
    (boot { port := none, size := none, file := .contents [], portOpens := true }).bufSize = 65536 ∧
    (boot { port := none, size := some "100".toList, file := .contents [], portOpens := true }).hostExit = some .failure ∧
    (boot { port := none, size := none, file := .missing, portOpens := true }).hostExit = some .failure := by decide

/-! ### States that meet the hypotheses of the statements -/

/-- Fresh after the port open, with TRANSFER issued (V41). -/
def freshTransfer : State := issue 0x700000 State.reset

/-- In a session, right before the strobe's falling edge (V5). -/
def pulse : State := { session with cr := some 0x0F, pending := [.wrCtrl 0x07] }

/-- TRANSFER before the device write of cycle 0x1234. -/
def writing : State := transferring .s10 0x1234 { session with cr := some 0x0F, dr := some 0x56 }

theorem inv_latching : (issue 0x300034 session).Inv :=
  ⟨by decide, by decide, by decide, by decide, fun _ _ => ⟨rfl, fun _ _ => ⟨.idle, rfl, rfl⟩, nofun, nofun⟩⟩

theorem inv_freshTransfer : freshTransfer.Inv :=
  ⟨by decide, by decide, by decide, by decide, fun _ _ => ⟨rfl, nofun, fun _ _ => ⟨rfl, .inl rfl⟩, nofun⟩⟩

theorem inv_closed : (issue 0x100000 closed).Inv :=
  ⟨by decide, by decide, by decide, by decide, fun _ _ => ⟨rfl, nofun, nofun, fun _ => ⟨rfl, rfl, rfl⟩⟩⟩

theorem inv_pulse : pulse.Inv :=
  ⟨by decide, by decide, by decide, by decide,
    fun _ _ => ⟨rfl, fun _ _ => ⟨.strobe, rfl, by decide, rfl, rfl, rfl, rfl⟩, nofun, nofun⟩⟩

theorem inv_writing : writing.Inv :=
  ⟨by decide, by decide, by decide, by decide,
    fun _ _ => ⟨rfl, rfl, rfl, rfl, 0x1234, by decide, rfl, by decide, by decide, by decide⟩⟩

/-- The last cycle done: S11 with the cursor at its exit value (R29). -/
theorem inv_exit : (transferring .s11 65536 session).Inv :=
  ⟨by decide, by decide, by decide, by decide, fun _ _ => ⟨rfl, rfl, rfl, rfl, rfl⟩⟩

theorem test_hyps_encodeOfDecode : decodeCommand 0x60FFFF = .instr (.cycle 0xFFFF) ∧ decodeCommand 0x5000FF = .instr (.strobe 0xFF) := by
  decide

theorem test_hyps_illegalWords : ∀ p ∈ [((0x000000 : CommandWord), Illegal.reservedOpcode), (0x800000, .reservedOpcode),
    (0xFFFFFF, .reservedOpcode), (0x710000, .reservedBits), (0x300100, .byteOperandTooWide), (0x708000, .operandNotZero)],
    (issue p.1 closed).Running ∧ (issue p.1 closed).Between ∧ (issue p.1 closed).choices = [] ∧
    (issue p.1 closed).hostMoves = [.command p.1] ∧ decodeCommand p.1 = .illegal p.2 := by decide

theorem test_hyps_stepRuns_command :
    let s := { issue 0x600000 session with choices := [.stall] }
    s.Running ∧ s.Between ∧ s.hostMoves = [.command 0x600000] ∧ decodeCommand 0x600000 = .instr (.cycle 0) ∧
    s.choices.head? ≠ some .abort ∧ ¬ (s.portRefuses = true ∧ s.nextWritesPort = true) := by decide

theorem test_hyps_stepRuns_micro :
    pulse.Running ∧ pulse.pending = [.wrCtrl 0x07] ∧ pulse.choices.head? ≠ some .abort ∧ pulse.portRefuses = false ∧
    (Instr.wrCtrl 0x07 = .wrData 0x07 ∧ MicroEvent.wrCtrl 0x07 = .wrData 0x07 ∨
      Instr.wrCtrl 0x07 = .wrCtrl 0x07 ∧ MicroEvent.wrCtrl 0x07 = .wrCtrl 0x07) ∧
    let s := { session with pending := [.wrData 0xAB] }
    s.Running ∧ s.pending = [.wrData 0xAB] ∧ s.choices.head? ≠ some .abort ∧ s.portRefuses = false := by decide

theorem test_hyps_placedWord : session.Running ∧ decodeTableWord 24 0x60FFFF = some (.cycle 0xFFFF) := by decide

theorem test_hyps_stopped :
    (State.faulted .enable .portNotOpen closed).fault = some { reason := .portNotOpen, word := some 0x100000, pending := [], upc := none } ∧
    ({ State.reset with aborted := true }.fault = none) ∧ ({ closed with hostExit := some .success }.fault = none) ∧
    ({ closed with hostExit := some .success }.aborted = false) := by decide

theorem test_hyps_noCommand : State.reset.Running ∧ State.reset.Between ∧ State.reset.hostMoves = [] ∧
    State.reset.choices.head? ≠ some .abort := by decide

theorem test_hyps_abort : abortedTransfer.Running ∧ abortedTransfer.choices = [.abort] := by decide

/-- V67. -/
theorem test_hyps_hang :
    let s := { transferring .s5 7 session with choices := [.hang] }
    s.Running ∧ s.choices.head? = some .hang ∧ s.nextWritesPort = true ∧
    let r := { pulse with choices := [.stall] }
    r.Running ∧ r.choices = [.stall] ∧ r.nextWritesPort = true := by decide

theorem test_hyps_portOpen : ∀ ok ∈ [true, false],
    let s := { closed with hostMoves := [.portOpen ok] }
    s.Running ∧ s.Between ∧ s.choices = [] ∧ s.hostMoves = [.portOpen ok] := by decide

theorem test_hyps_portClose :
    let s := { outside with hostMoves := [.portClose] }
    s.Running ∧ s.Between ∧ s.choices = [] ∧ s.hostMoves = [.portClose] := by decide

theorem test_hyps_microOps : session.writeFails = false ∧ failing.writeFails = true ∧ session.params.portWriteFallible = false := by
  decide

/-- A write that fails as the first of each command: the session's, with both latches held, and the others outside one. -/
theorem test_hyps_failedCommand : (failing.writeFails = true ∧ failing.InSession ∧ failing.latHi = .held 0x12 ∧
      failing.latLo = .held 0x34) ∧
    { failing with phase := .idle }.writeFails = true ∧ { failing with phase := .idle }.portOpen = true ∧
    { failing with phase := .idle }.phase = .idle := by decide

/-- A write that fails as the head of `pending`. -/
theorem test_hyps_failedPending :
    let s := { failing with pending := [.wrData 0xFF, .wrCtrl 0x05] }
    s.Running ∧ s.params.portWriteFallible = true ∧ s.choices = [.writeFails] ∧ s.pending = [.wrData 0xFF, .wrCtrl 0x05] ∧
    (MicroEvent.wrData 0xFF).isPortWrite = true := by decide

/-- A write that fails in any state of the micro-program, for any cursor value. -/
theorem test_hyps_failedState (u : Upc) (c : Nat) : (transferring u c failing).Running ∧
    (transferring u c failing).params.portWriteFallible = true ∧ (transferring u c failing).choices = [.writeFails] ∧
    (transferring u c failing).pending = [] ∧ (transferring u c failing).upc = some u ∧
    (transferring u c failing).cursor = some c :=
  ⟨(by decide : failing.Running), rfl, rfl, rfl, rfl, rfl⟩

/-- The boundaries at which a failure befalls no port write, one for each clause. -/
theorem test_hyps_onlyPortWrites : ∀ s ∈ [{ session with choices := [.writeFails] }, { failing with pending := [.progress 1] },
      transferring .s1 0 failing, transferring .s12 0 failing, { failing with hostMoves := [.portClose] }],
    s.choices = [.writeFails] ∧ (s.params.portWriteFallible = false ∨ s.pending = [.progress 1] ∨
      (s.pending = [] ∧ (s.upc = some .s1 ∨ s.upc = some .s12)) ∨ (s.Between ∧ s.hostMoves.head? = some .portClose)) := by decide

/-- With the byte of a named state and with a byte outside the image of `PHYS_MAP`. -/
theorem test_hyps_sameByte : session.writeFails = false ∧ session.cr = some 0x07 ∧
    { session with cr := some 0xFF }.writeFails = false ∧ { session with cr := some 0xFF }.cr = some 0xFF := by decide

/-- The states and bytes that meet each clause of the latches' and the device's reactions: unknown lines, falling, rising and steady
edges, `DR` known and unknown. -/
theorem test_hyps_reactions : ∀ p ∈ [(State.reset, (0x07 : Byte)), (State.reset, 0x00), (session, 0x05), (session, 0x03), (session, 0x07),
    (session, 0x0F), ({ session with cr := some 0x00 }, 0x06), ({ session with cr := some 0x00, dr := none }, 0x06), (pulse, 0x07),
    ({ pulse with latHi := .unknown }, 0x07), (pulse, 0x06), ({ session with cr := some 0x0E }, 0x06)],
    p.1.writeFails = false ∧ (physInv p.1.params p.2).isSome = true := by decide

theorem test_hyps_heldLatch : session.writeFails = false ∧ session.latLo = .held 0x34 ∧ session.latHi = .held 0x12 ∧
    session.lines = some 0x7 ∧ physInv session.params 0x0F = some 0xF ∧ BitVec.getLsbD (0x7 : Lines) 1 = true ∧ BitVec.getLsbD (0xF : Lines) 1 = true ∧
    BitVec.getLsbD (0x7 : Lines) 2 = true ∧ BitVec.getLsbD (0xF : Lines) 2 = true ∧
    after (exec (.wrCtrl 0x0F) session) (fun _ => ()) = some () ∧ after (exec (.wrData 0x0F) session) (fun _ => ()) = some () := by
  decide

theorem test_hyps_enable : closed.portOpen = false ∧ (session.portOpen = true ∧ session.phase = .enabled) ∧
    (State.reset.portOpen = true ∧ State.reset.phase = .idle ∧ State.reset.writeFails = false ∧ paramsWf State.reset.params = true ∧
      State.reset.cr = none) ∧
    (outside.portOpen = true ∧ outside.phase = .idle ∧ outside.writeFails = false ∧ paramsWf outside.params = true ∧
      outside.holds .off) := by decide

theorem test_hyps_disable : closed.portOpen = false ∧ (outside.portOpen = true ∧ outside.phase = .idle) ∧
    (session.InSession ∧ session.writeFails = false ∧ paramsWf session.params = true ∧ session.holds .idle) := by decide

/-- V18 to V21, V24, V31 to V35: in a session, with both latches held, the host issues any one word: that of a latch or strobe
command with any byte, or of CYCLE with any address. -/
theorem test_hyps_dataCommands (w : CommandWord) : (issue w session).Ready ∧ (issue w session).phase = .enabled ∧
    (issue w session).InSession ∧ (issue w session).writeFails = false ∧ (issue w session).holds .idle ∧
    (issue w session).latHi = .held 0x12 ∧ (issue w session).latLo = .held 0x34 ∧ (issue w session).hostMoves = [.command w] :=
  ⟨(by decide : session.Ready), rfl, ⟨rfl, rfl⟩, rfl, rfl, rfl, rfl, rfl⟩

/-- The faults of the latch and strobe commands and of CYCLE: each latch missing alone. -/
theorem test_hyps_dataFaults : closed.portOpen = false ∧ (outside.portOpen = true ∧ outside.phase = .idle) ∧
    { session with latHi := .unknown }.InSession ∧ (∀ h, { session with latHi := .unknown }.latHi ≠ .held h) ∧
    { session with latLo := .opened }.InSession ∧ (∀ l, { session with latLo := .opened }.latLo ≠ .held l) ∧
    (0x0201 : Addr).toNat % 256 ≠ 0 :=
  ⟨rfl, ⟨rfl, rfl⟩, ⟨rfl, rfl⟩, nofun, ⟨rfl, rfl⟩, nofun, by decide⟩

/-- Addresses of CYCLE at the ends of each clause's range; the state is that of `test_hyps_dataCommands`. -/
theorem test_hyps_cycle : (∀ a ∈ [(0x0000 : Addr), 0xFC00], a.toNat % 1024 = 0) ∧
    (∀ a ∈ [(0x0100 : Addr), 0xFF00], a.toNat % 1024 ≠ 0 ∧ a.toNat % 256 = 0) ∧
    (∀ a ∈ [(0x0001 : Addr), 0xFFFF], a.toNat % 256 ≠ 0) := by simp

/-- V37. -/
theorem test_hyps_staleLatch :
    let s := issue 0x600201 session
    s.Ready ∧ s.phase = .enabled ∧ s.holds .idle ∧ (0x0201 : Addr).toNat % 256 ≠ 0 ∧ s.latHi = .held 0x12 ∧
    (0x12 : Byte) ≠ (0x0201 : Addr).extractLsb' 8 8 ∧ s.hostMoves = [.command (0x600000 + (0x0201 : Addr).setWidth 24)] ∧
    s.params.devAddrBits = 16 ∧ s.params.deviceWrite = .overwrite := by decide

theorem test_hyps_transferFirstStep : outside.portOpen = true ∧ outside.phase = .idle ∧ outside.writeFails = false := by decide

/-- Every state of the micro-program, for every cursor value, those at both ends among them. -/
theorem test_hyps_microProgram (u : Upc) (c : Nat) : (transferring u c session).Running ∧ (transferring u c session).pending = [] ∧
    (transferring u c session).choices = [] ∧ (transferring u c session).cursor = some c ∧ (transferring u c session).upc = some u :=
  ⟨(by decide : session.Running), rfl, rfl, rfl, rfl⟩

theorem test_hyps_transferAddresses : writing.Inv ∧ writing.Running ∧ writing.upc = some .s10 ∧ writing.cursor = some 0x1234 ∧
    writing.writeFails = false ∧ writing.choices.head? = none :=
  ⟨inv_writing, by decide⟩

theorem test_hyps_wholeDevice : freshTransfer.Inv ∧ freshTransfer.Ready ∧ freshTransfer.phase = .idle ∧
    freshTransfer.params.deviceWrite = .overwrite ∧ freshTransfer.hostMoves = [.command 0x700000] :=
  ⟨inv_freshTransfer, by decide⟩

theorem test_hyps_cursor : (writing.Inv ∧ writing.Running ∧ writing.cursor = some 0x1234 ∧ writing.upc ≠ some .s11) ∧
    ((transferring .s11 65536 session).Inv ∧ (transferring .s11 65536 session).Running ∧
      (transferring .s11 65536 session).cursor = some 65536) :=
  ⟨⟨inv_writing, by decide⟩, inv_exit, by decide⟩

theorem test_hyps_tiling : bufSizeOk { session with bufSize := 1 }.bufSize = true ∧ bufSizeOk session.bufSize = true ∧
    bufSizeOk State.reset.bufSize = true := by decide

/-- Between two commands, the first step of LATCH_LOW. -/
theorem test_hyps_sessionStep : (issue 0x300034 session).Inv ∧ (issue 0x300034 session).Running ∧ (issue 0x300034 session).InSession ∧
    (issue 0x300034 session).Between ∧ (issue 0x300034 session).writeFails = false ∧
    ¬ ((issue 0x300034 session).Between ∧ (issue 0x300034 session).hostMoves.head? = some (.portOpen true)) ∧
    ∃ t, step (issue 0x300034 session) = .next t ∧ t.InSession ∧ t.fault = none ∧ t.aborted = false ∧ t.portOpen = true :=
  ⟨inv_latching, by decide, by decide, by decide, by decide, by decide, _, rfl, by decide⟩

/-- Inside a command, the falling edge of a strobe. -/
theorem test_hyps_sessionEdge : pulse.Inv ∧ pulse.Running ∧ pulse.InSession ∧ pulse.writeFails = false ∧ ¬ pulse.Between ∧
    pulse.params.portWriteFallible = false ∧ pulse.devWf ∧
    ∃ t, step pulse = .next t ∧ t.InSession ∧ t.fault = none ∧ t.aborted = false ∧ t.portOpen = true :=
  ⟨inv_pulse, by decide, by decide, by decide, by decide, by decide, by decide, _, rfl, by decide⟩

/-- A command, and a second close, at a closed port. -/
theorem test_hyps_closedPort : ((issue 0x100000 closed).Inv ∧ (issue 0x100000 closed).portOpen = false ∧
      (issue 0x100000 closed).choices.head? ≠ some .abort ∧ (issue 0x100000 closed).hostMoves.head? ≠ some (.portOpen true) ∧
      ∃ t, step (issue 0x100000 closed) = .next t) ∧
    let s := { closed with hostMoves := [.portClose] }
    s.Inv ∧ s.portOpen = false ∧ s.choices.head? ≠ some .abort ∧ s.hostMoves.head? ≠ some (.portOpen true) ∧
      ∃ t, step s = .next t :=
  ⟨⟨inv_closed, rfl, by decide, by decide, _, rfl⟩,
    ⟨by decide, by decide, by decide, by decide, fun _ _ => ⟨rfl, nofun, nofun, fun _ => ⟨rfl, rfl, rfl⟩⟩⟩, rfl, by decide, by decide,
    _, rfl⟩

theorem test_hyps_phaseChange : (∃ t, step (issue 0x200000 session) = .next t ∧ t.phase ≠ (issue 0x200000 session).phase) ∧
    ∃ t, step (transferring .s11 65536 session) = .next t ∧ t.phase ≠ (transferring .s11 65536 session).phase :=
  ⟨⟨_, rfl, by decide⟩, _, rfl, by decide⟩

theorem test_hyps_dataFrame : ∀ i ∈ [Instr.latchLow 0xFF, .latchHigh 0xFF, .strobe 0xFF, .cycle 0xFFFF],
    i ∈ [Instr.latchLow 0xFF, .latchHigh 0xFF, .strobe 0xFF, .cycle 0xFFFF] ∧
    after (exec i session) (fun t => t.fault) = some none := by decide

theorem test_hyps_sessionFrame : after (exec .enable outside) (fun t => t.fault) = some none ∧
    after (exec .disable session) (fun t => t.fault) = some none ∧ after (exec .transfer outside) (fun t => t.fault) = some none := by
  decide

/-- A device write stores one cell, and every other cell is outside it. -/
theorem test_hyps_microFrame : after (exec (.wrData 0xFF) session) (fun t => t.fault) = some none ∧
    after (exec (.wrCtrl 0x07) pulse) (fun t => t.fault) = some none ∧ ctrlStoredCell 0x07 pulse = some 0x1234 ∧
    ctrlStoredCell 0x07 pulse ≠ some 0x1235 := by decide

theorem test_hyps_size : Invocation.size { port := none, size := some "3".toList, file := .missing, portOpens := true } = some "3".toList ∧
    sizeRule "3".toList = none ∧ sizeRule "64".toList = some 65536 ∧ parseDecimal "64".toList = some 64 ∧
    Invocation.file { port := none, size := some "64".toList, file := .contents [1], portOpens := true } = .contents [1] := by decide

/-- S5: a buffer shorter than the file and one longer. -/
theorem test_hyps_buffer : { session with buf := buildBuffer 1 [1, 2, 3], bufSize := 1 }.buf = buildBuffer 1 [1, 2, 3] ∧ 0 < 1 ∧
    { session with buf := buildBuffer 1024 [1, 2, 3], bufSize := 1024 }.buf = buildBuffer 1024 [1, 2, 3] ∧ 1023 < 1024 := by decide

/-- S9, V60, V63, V64: an invocation for each clause of the boot order. -/
theorem test_hyps_boot :
    Invocation.file { port := none, size := none, file := .missing, portOpens := true } = .missing ∧
    Invocation.file { port := none, size := none, file := .unreadable, portOpens := true } = .unreadable ∧
    Invocation.size { port := none, size := some "100".toList, file := .contents [], portOpens := true } = some "100".toList ∧
    sizeRule "100".toList = none ∧
    (∀ ok ∈ [true, false], let inv : Invocation := { port := none, size := none, file := .contents [1, 2], portOpens := ok }
      inv.file = .contents [1, 2] ∧ inv.size = none ∧ inv.portOpens = ok) ∧
    (∀ ok ∈ [true, false],
      let inv : Invocation := { port := none, size := some "128".toList, file := .contents [1, 2], portOpens := ok }
      inv.file = .contents [1, 2] ∧ inv.size = some "128".toList ∧ inv.portOpens = ok) ∧ sizeRule "128".toList = some 128 := by
  decide

theorem test_hyps_exit : ∀ status ∈ [ExitStatus.success, .failure],
    let s := { closed with hostMoves := [.exit status] }
    s.Running ∧ s.Between ∧ s.choices = [] ∧ s.hostMoves = [.exit status] := by decide

end Sys2Proof.Tests
end

section
/-! SUPPORT. A step reads this boundary's choice, but for abort, stall and hang, only to say whether its port write fails (R14, R85).
So changing the choices changes no more of the step than that, and a failure where no port write can fail has no effect. -/

namespace Sys2Proof.Machine

/-! ### The operations and the choices -/

/-- `s` with other choices at the coming step boundaries. -/
def State.withChoices (cs : List Choice) (s : State) : State := { s with choices := cs }

theorem State.withChoices_self (s : State) : s.withChoices s.choices = s := rfl

section commute
variable {cs : List Choice}

theorem State.deviceReact_withChoices (r : DeviceReaction) (s : State) :
    (s.withChoices cs).deviceReact r = (s.deviceReact r).withChoices cs := by
  cases r <;> rfl

theorem State.react_withChoices (o : Option Lines) (n : Lines) (s : State) :
    (s.withChoices cs).react o n = (s.react o n).withChoices cs := by
  have hr : deviceReaction o n (s.withChoices cs) = deviceReaction o n s := rfl
  rw [State.react, hr, State.deviceReact_withChoices]
  rfl

theorem State.writeCtrl_withChoices (v : Byte) (s : State) :
    (s.withChoices cs).writeCtrl v = (s.writeCtrl v).withChoices cs := by
  have hp : (s.withChoices cs).params = s.params := rfl
  have hc : (s.withChoices cs).cr = s.cr := rfl
  unfold State.writeCtrl
  rw [hp, hc]
  split
  · exact State.react_withChoices s.lines _ (s.storeCtrl v)
  · split
    · rfl
    · exact State.react_withChoices s.lines _ { s.storeCtrl v with draws := s.draws + 1 }

theorem State.apply_withChoices (e : MicroEvent) (s : State) :
    (s.withChoices cs).apply e = (s.apply e).withChoices cs := by
  cases e with
  | wrData v => rfl
  | wrCtrl v => exact State.writeCtrl_withChoices v s
  | progress k => rfl
  | complete => rfl

theorem State.failWrite_withChoices (e : MicroEvent) (s : State) :
    (s.withChoices cs).failWrite e = (s.failWrite e).withChoices cs := by
  cases e <;> rfl

theorem Upc.finish_withChoices (u : Upc) (c : Nat) (t : State) :
    u.finish c (t.withChoices cs) = (u.finish c t).withChoices cs := by
  cases u <;> rfl

/-- Performing a micro-event reads the choices only where it is a port write, and then only whether that fails (R14). -/
theorem State.perform_withChoices {s : State} {e : MicroEvent} {done : State → State}
    (hw : e.isPortWrite = true → (s.withChoices cs).writeFails = s.writeFails)
    (hd : ∀ t, done (t.withChoices cs) = (done t).withChoices cs) :
    (s.withChoices cs).perform e done = (s.perform e done).withChoices cs := by
  have hf : (e.isPortWrite && (s.withChoices cs).writeFails) = (e.isPortWrite && s.writeFails) := by
    cases he : e.isPortWrite with
    | false => rfl
    | true => rw [hw he]
  unfold State.perform
  rw [hf]
  split
  · exact State.failWrite_withChoices e s
  · rw [State.apply_withChoices, hd]

theorem State.runPending_withChoices {s : State}
    (hw : ∀ e rest, s.pending = e :: rest → e.isPortWrite = true → (s.withChoices cs).writeFails = s.writeFails) :
    (s.withChoices cs).runPending = s.runPending.withChoices cs := by
  cases hp : s.pending with
  | nil => simp [State.runPending, State.withChoices, hp]
  | cons e rest =>
    have hp' : (s.withChoices cs).pending = e :: rest := hp
    rw [State.runPending_cons hp, State.runPending_cons hp']
    exact State.perform_withChoices (hw e rest hp) fun _ => rfl

theorem State.microStep_withChoices {u : Upc} {c : Nat} {s : State}
    (hw : (u.event c s).isPortWrite = true → (s.withChoices cs).writeFails = s.writeFails) :
    (s.withChoices cs).microStep u c = (s.microStep u c).withChoices cs := by
  have he : u.event c (s.withChoices cs) = u.event c s := by cases u <;> rfl
  rw [State.microStep, he]
  exact State.perform_withChoices hw (Upc.finish_withChoices u c)

/-! ### Taking a command and the choices -/

theorem State.takeCommand_withChoices {i : Instr} {run : State → State} {s : State}
    (hr : admission i s = none → run { s.withChoices cs with word := commandWordOf i } =
      (run { s with word := commandWordOf i }).withChoices cs) :
    (s.withChoices cs).takeCommand i run = (s.takeCommand i run).withChoices cs := by
  have ha : admission i (s.withChoices cs) = admission i s := rfl
  cases h : admission i s with
  | some f =>
    rw [State.takeCommand_raises h, State.takeCommand_raises (ha.trans h)]
    rfl
  | none =>
    rw [State.takeCommand_ok h, State.takeCommand_ok (ha.trans h), hr h]

/-- A command that is not TRANSFER performs the head of its expansion first (R83, R84). -/
theorem firstIsPortWrite_of_expansion {i : Instr} {s : State} {e : MicroEvent} {rest : List MicroEvent}
    (h : expansion i s = e :: rest) : firstIsPortWrite i s = e.isPortWrite := by
  cases i with
  | transfer => cases h
  | _ => simp only [firstIsPortWrite, h]

section firstStep
variable {i : Instr} {s : State}
  (hw : admission i s = none → firstIsPortWrite i s = true → (s.withChoices cs).writeFails = s.writeFails)
include hw

theorem State.start_withChoices :
    (s.withChoices cs).start i (expansion i s) = (s.start i (expansion i s)).withChoices cs :=
  State.takeCommand_withChoices fun ha =>
    State.runPending_withChoices (s := { s with word := commandWordOf i, pending := expansion i s })
      fun _ _ hp he => hw ha ((firstIsPortWrite_of_expansion hp).trans he)

/-- A command's first step reads the choices only where it performs a port write (R83, R85). -/
theorem exec_withChoices (hd : ∀ v, i ≠ .wrData v) (hc : ∀ v, i ≠ .wrCtrl v) :
    exec i (s.withChoices cs) = onNext (State.withChoices cs) (exec i s) := by
  cases i with
  | enable =>
    refine congrArg Host.Outcome.next (State.takeCommand_withChoices fun ha => ?_)
    exact State.perform_withChoices (s := { s with word := _, pending := expansion .enable s })
      (fun _ => hw ha rfl) fun _ => rfl
  | disable =>
    refine congrArg Host.Outcome.next (State.takeCommand_withChoices fun ha => ?_)
    exact State.perform_withChoices (s := { s with word := _, pending := expansion .disable s })
      (fun _ => hw ha rfl) fun _ => rfl
  | latchLow b => exact congrArg Host.Outcome.next (State.start_withChoices hw)
  | latchHigh b => exact congrArg Host.Outcome.next (State.start_withChoices hw)
  | strobe b => exact congrArg Host.Outcome.next (State.start_withChoices hw)
  | cycle a => exact congrArg Host.Outcome.next (State.start_withChoices hw)
  | transfer =>
    refine congrArg Host.Outcome.next (State.takeCommand_withChoices fun ha => ?_)
    exact State.microStep_withChoices (s := { s with word := _, upc := _ }) fun _ => hw ha rfl
  | wrData v => exact absurd rfl (hd v)
  | wrCtrl v => exact absurd rfl (hc v)

end firstStep

/-! ### The step and the choices -/

/-- Whether a row of R124 is a port write does not depend on the cursor. -/
theorem Upc.event_isPortWrite (u : Upc) (c : Nat) (s : State) : (u.event c s).isPortWrite = (u.event 0 s).isPortWrite := by
  cases u <;> rfl

theorem State.runMicroprogram_withChoices {u : Upc} {s : State}
    (hw : (u.event 0 s).isPortWrite = true → (s.withChoices cs).writeFails = s.writeFails) :
    (s.withChoices cs).runMicroprogram u = onNext (State.withChoices cs) (s.runMicroprogram u) := by
  have hc : (s.withChoices cs).cursor = s.cursor := rfl
  unfold State.runMicroprogram
  rw [hc]
  split
  · exact congrArg Host.Outcome.next
      (State.microStep_withChoices fun he => hw ((Upc.event_isPortWrite u _ s).symm.trans he))
  · split
    · rfl
    · exact congrArg Host.Outcome.next (State.microStep_withChoices hw)

theorem hostMove_withChoices {m : HostMove} {s : State}
    (hw : ∀ w i, m = .command w → decodeCommand w = .instr i → admission i s = none → firstIsPortWrite i s = true →
      (s.withChoices cs).writeFails = s.writeFails) :
    hostMove m (s.withChoices cs) = onNext (State.withChoices cs) (hostMove m s) := by
  cases m with
  | command w =>
    cases hi : decodeCommand w with
    | illegal r =>
      simp only [hostMove, hi]
      rfl
    | instr i =>
      obtain ⟨hd, hc⟩ := decodeCommand_command hi
      simp only [hostMove, hi]
      exact exec_withChoices (hw w i rfl hi) hd hc
  | portOpen ok => cases ok <;> rfl
  | portClose => rfl
  | exit status => rfl

/-- The step that proceeds reads the choices only where it performs a port write, and then only whether that fails (R14, R85). -/
theorem advance_withChoices {s : State} (hw : s.nextWritesPort = true → (s.withChoices cs).writeFails = s.writeFails) :
    advance (s.withChoices cs) = onNext (State.withChoices cs) (advance s) := by
  have hp : (s.withChoices cs).pending = s.pending := rfl
  have hu : (s.withChoices cs).upc = s.upc := rfl
  have hm : (s.withChoices cs).hostMoves = s.hostMoves := rfl
  unfold State.nextWritesPort at hw
  unfold advance
  rw [hp, hu, hm]
  split
  · rename_i e rest h
    refine congrArg Host.Outcome.next (State.runPending_withChoices fun e' rest' h' he => hw ?_)
    simpa [h'] using he
  · rename_i u hpn hun
    exact State.runMicroprogram_withChoices fun he => hw (by simpa [hpn, hun] using he)
  · rename_i m rest hpn hun hmn
    refine hostMove_withChoices (s := { s with hostMoves := rest }) fun w i hwm hi ha hf => hw ?_
    subst hwm
    have ha' : admission i s = none := ha
    have hf' : firstIsPortWrite i s = true := by cases i <;> exact hf
    simp [hpn, hun, hmn, hi, ha', hf']
  · rfl

end commute

/-- The step that proceeds leaves the choices to the boundary. -/
theorem advance_choices {s t : State} (h : advance s = .next t) : t.choices = s.choices := by
  have ha := advance_withChoices (cs := s.choices) (s := s) fun _ => rfl
  rw [State.withChoices_self, h, onNext] at ha
  have ht : t = t.withChoices s.choices := Host.Outcome.next.inj ha
  rw [ht]
  rfl

/-- Where the choice is to proceed or to fail the write, a running machine takes its step (R83, R85). -/
theorem stepOnce_of_running {s : State} {c : Choice} {later : List Choice} (hr : stopped s = none)
    (hs : s.choices = c :: later) (hc : c = .proceed ∨ c = .writeFails) :
    stepOnce s = onNext State.consumeChoice (advance s) := by
  rcases hc with rfl | rfl <;> simp [stepOnce, hr, hs, State.portRefuses]

/-- A chosen failure leaves a step as it would have been unless the step performs a port write that can fail (R14, R85). -/
theorem step_writeFails_eq_proceed {s : State} {later : List Choice} (hs : s.choices = .writeFails :: later)
    (hw : s.params.portWriteFallible = false ∨ s.nextWritesPort = false) :
    step s = step (s.withChoices (.proceed :: later)) := by
  have hst : stopped (s.withChoices (.proceed :: later)) = stopped s := rfl
  unfold step
  cases hr : stopped s with
  | some o => simp only [stepOnce, hst, hr]
  | none =>
    have ha : advance (s.withChoices (.proceed :: later)) = onNext (State.withChoices (.proceed :: later)) (advance s) := by
      refine advance_withChoices fun hn => ?_
      rcases hw with hp | hn'
      · simp [State.writeFails, State.withChoices, hp]
      · simp [hn'] at hn
    rw [stepOnce_of_running hr hs (.inr rfl), stepOnce_of_running (hst.trans hr) rfl (.inl rfl), ha]
    cases h : advance s with
    | next t =>
      have ht : t.choices = .writeFails :: later := (advance_choices h).trans hs
      simp [onNext, State.consumeChoice, State.withChoices, ht]
    | fault r => rfl
    | refused r => rfl

/-! ### Steps without a port write -/

theorem nextWritesPort_of_pending {s : State} {e : MicroEvent} {rest : List MicroEvent} (hp : s.pending = e :: rest) :
    s.nextWritesPort = e.isPortWrite := by
  simp [State.nextWritesPort, hp]

theorem nextWritesPort_of_upc {s : State} {u : Upc} (hp : s.pending = []) (hu : s.upc = some u) :
    s.nextWritesPort = (u.event 0 s).isPortWrite := by
  simp [State.nextWritesPort, hp, hu]

/-- Between commands only a command of the host leads to a port write (R83). -/
theorem nextWritesPort_of_noCommand {s : State} (hb : s.Between) (hm : ∀ w, s.hostMoves.head? ≠ some (.command w)) :
    s.nextWritesPort = false := by
  obtain ⟨hp, hu⟩ := hb
  cases hl : s.hostMoves with
  | nil => simp [State.nextWritesPort, hp, hu, hl]
  | cons m rest =>
    cases m with
    | command w => exact absurd (by rw [hl]; rfl) (hm w)
    | _ => simp [State.nextWritesPort, hp, hu, hl]

/-- Settles O60: the listed boundaries are ones whose step performs no port write, or none that can fail. -/
theorem onlyPortWritesFail : Obligations.OnlyPortWritesFail := by
  intro s later hs hcase
  refine step_writeFails_eq_proceed hs ?_
  rcases hcase with hinf | ⟨e, rest, hp, he⟩ | ⟨hp, hu | hu⟩ | ⟨hb, hm⟩
  · exact .inl hinf
  · exact .inr ((nextWritesPort_of_pending hp).trans he)
  · exact .inr (nextWritesPort_of_upc hp hu)
  · exact .inr (nextWritesPort_of_upc hp hu)
  · exact .inr (nextWritesPort_of_noCommand hb hm)

end Sys2Proof.Machine
end

section
/-! SUPPORT. The whole-machine rules about the state: one elimination rule for a step, which every rule of this family is proved by,
what a step adds to the trace (R31), which commands change the phase (R26), and what a closed port leaves alone (R27). -/

namespace Sys2Proof.Machine

/-! ### What a step can do -/

/-- What holds after each of the things a step can do (R83, R85, R145), and is kept by passing the boundary, holds after the step. -/
theorem step_elim {P : State → Prop} {s t : State} (h : step s = .next t)
    (boundary : ∀ u, P u → P u.consumeChoice)
    (refused : P s)
    (abort : s.choices.head? = some .abort → P s.abort)
    (pending : ∀ e rest, s.pending = e :: rest → P (s.perform e fun t => { t with pending := rest }))
    (row : ∀ u c, s.upc = some u → P (s.microStep u c))
    (command : ∀ w i rest u, s.Between → s.hostMoves = .command w :: rest → decodeCommand w = .instr i →
      exec i { s with hostMoves := rest } = .next u → P u)
    (illegal : ∀ w rest, P (State.takeIllegal w { s with hostMoves := rest }))
    (opens : ∀ rest, s.Between → s.hostMoves = .portOpen true :: rest → P (State.openPort { s with hostMoves := rest }))
    (closes : ∀ rest, P (State.closePort { s with hostMoves := rest }))
    (exits : ∀ x rest, P (State.exitHost x { s with hostMoves := rest })) : P t := by
  obtain ⟨-, ⟨ha, rfl⟩ | ⟨-, -, rfl⟩ | ⟨u, hu, rfl⟩⟩ := step_cases h
  · have hc : s.consumeChoice.abort = s.abort.consumeChoice := by
      unfold State.consumeChoice
      split
      · rw [if_pos (by assumption)]
      · rw [if_neg (by assumption)]; rfl
    exact hc ▸ boundary _ (abort ha)
  · exact boundary _ refused
  · refine boundary _ ?_
    obtain ⟨e, rest, hp, rfl⟩ | ⟨-, q, c, hq, -, rfl⟩ | ⟨hb, m, rest, hm, hu⟩ := advance_cases hu
    · exact pending e rest hp
    · exact row q c hq
    · obtain ⟨w, i, rfl, hi, hu⟩ | ⟨w, r, rfl, -, rfl⟩ | ⟨rfl, rfl⟩ | ⟨rfl, rfl⟩ | ⟨x, -, rfl⟩ := hostMove_cases hu
      · exact command w i rest u hb hm hi hu
      · exact illegal w rest
      · exact opens rest hb hm
      · exact closes rest
      · exact exits x rest

/-! ### The target memory and the inputs -/

/-- Settles O43: every operation of a step keeps the canonical form, and an abort and a port open leave no cell listed. -/
theorem deviceMemoryStaysCanonical : Obligations.DeviceMemoryStaysCanonical := by
  intro s t hw h
  apply step_elim (P := State.devWf) h
  case boundary => exact fun u hu => by simpa [State.devWf] using hu
  case pending => exact fun e _ _ => State.perform_devWf hw e fun _ => ⟨rfl, rfl⟩
  case row => exact fun u c _ => State.microStep_devWf hw u c
  case command => exact fun _ _ _ _ _ _ _ hu => exec_devWf hu hw
  case abort => simp [State.devWf, Memory.wf]
  case opens => simp [State.devWf, Memory.wf]
  all_goals intros; exact hw

/-- Settles O44: no operation of a step writes the inputs. -/
theorem inputsNeverChange : Obligations.InputsNeverChange := by
  intro s t h
  have hin : t.inputs = s.inputs := by
    apply step_elim (P := fun u => u.inputs = s.inputs) h
    case boundary => exact fun u hu => by simpa using hu
    case pending => exact fun e _ _ => State.perform_inputs e s fun _ => rfl
    case row => exact fun u c _ => State.perform_inputs _ s (u.finish_inputs c)
    case command => exact fun _ _ _ _ _ _ _ hu => (exec_inputs hu :)
    all_goals intros; rfl
  simpa using hin

/-! ### The trace -/

theorem State.spuriousWrite_trace_grows (s : State) : s.trace <+: s.spuriousWrite.trace := List.prefix_append ..

theorem State.react_trace_grows (s : State) (o : Option Lines) (n : Lines) : s.trace <+: (s.react o n).trace := by
  have hdev (r : DeviceReaction) : s.trace <+: (s.deviceReact r).trace := by
    cases r with
    | quiet => exact List.prefix_rfl
    | _ => exact List.prefix_append ..
  exact ((hdev _).trans (List.prefix_append ..)).trans (List.prefix_append ..)

theorem State.writeCtrl_trace_grows (s : State) (v : Byte) : s.trace <+: (s.writeCtrl v).trace := by
  have hstore : s.trace <+: (s.storeCtrl v).trace := List.prefix_append ..
  unfold State.writeCtrl
  split
  · exact hstore.trans (State.react_trace_grows ..)
  · split
    · exact hstore
    · exact hstore.trans (State.react_trace_grows { s.storeCtrl v with draws := s.draws + 1 } ..)

theorem State.apply_trace_grows (s : State) (e : MicroEvent) : s.trace <+: (s.apply e).trace := by
  cases e with
  | wrCtrl v => exact State.writeCtrl_trace_grows s v
  | _ => exact List.prefix_append ..

theorem State.failWrite_trace_grows (s : State) (e : MicroEvent) : s.trace <+: (s.failWrite e).trace := by
  cases e with
  | wrCtrl v => exact State.spuriousWrite_trace_grows { s with cr := none, latLo := .unknown, latHi := .unknown }
  | _ => exact List.prefix_rfl

/-- Performing a micro-event keeps the events there are, if its bookkeeping leaves the trace alone (R31). -/
theorem State.perform_trace_grows (s : State) (e : MicroEvent) {done : State → State} (hd : ∀ x, (done x).trace = x.trace) :
    s.trace <+: (s.perform e done).trace := by
  rcases State.perform_cases s e done with hp | ⟨_, _, hp⟩ <;> rw [hp]
  · rw [hd]
    exact State.apply_trace_grows s e
  · exact State.failWrite_trace_grows s e

theorem Upc.finish_trace (u : Upc) (c : Nat) (t : State) : (u.finish c t).trace = t.trace := by
  cases u <;> rfl

theorem State.microStep_trace_grows (s : State) (u : Upc) (c : Nat) : s.trace <+: (s.microStep u c).trace :=
  State.perform_trace_grows s _ (u.finish_trace c)

/-- Taking a command keeps the events there are, if its first step does (R31). -/
theorem State.takeCommand_trace_grows (i : Instr) {run : State → State} (s : State) (hd : ∀ x, x.trace <+: (run x).trace) :
    s.trace <+: (s.takeCommand i run).trace := by
  rcases State.takeCommand_cases i run s with ⟨_, hp⟩ | ⟨_, _, hp⟩ <;> rw [hp]
  · exact hd { s with word := commandWordOf i }
  · exact List.prefix_rfl

theorem State.start_trace_grows (i : Instr) (events : List MicroEvent) (s : State) :
    s.trace <+: (s.start i events).trace := by
  refine State.takeCommand_trace_grows i s fun x => ?_
  unfold State.runPending
  split
  · exact List.prefix_rfl
  · exact State.perform_trace_grows { x with pending := events } _ fun _ => rfl

/-- No instruction removes or reorders events (R31). -/
theorem exec_trace_grows {i : Instr} {s t : State} (h : exec i s = .next t) : s.trace <+: t.trace := by
  cases i <;> obtain rfl := Host.Outcome.next.inj h
  case enable =>
    exact State.takeCommand_trace_grows _ _ fun x =>
      State.perform_trace_grows { x with pending := expansion .enable s } _ fun _ => rfl
  case disable =>
    exact State.takeCommand_trace_grows _ _ fun x =>
      State.perform_trace_grows { x with pending := expansion .disable s } _ fun _ => rfl
  case transfer =>
    exact State.takeCommand_trace_grows _ _ fun x => State.microStep_trace_grows { x with upc := some .s0 } _ _
  case wrData => exact State.perform_trace_grows _ _ fun _ => rfl
  case wrCtrl => exact State.perform_trace_grows _ _ fun _ => rfl
  all_goals exact State.start_trace_grows _ _ _

/-- Settles O45: every operation of a step but a port open appends to the trace or leaves it. -/
theorem traceOnlyGrows : Obligations.TraceOnlyGrows := by
  intro s t h
  by_cases ho : s.Between ∧ s.hostMoves.head? = some (.portOpen true)
  · exact .inl ho
  · have hpre : s.trace <+: t.trace := by
      apply step_elim (P := fun u => s.trace <+: u.trace) h
      case boundary => exact fun u hu => by simpa using hu
      case pending => exact fun e _ _ => State.perform_trace_grows s e fun _ => rfl
      case row => exact fun u c _ => State.microStep_trace_grows s u c
      case command => exact fun _ _ _ _ _ _ _ hu => (exec_trace_grows hu :)
      case opens => exact fun rest hb hm => absurd ⟨hb, by simp [hm]⟩ ho
      all_goals intros; exact List.prefix_rfl
    obtain ⟨new, hnew⟩ := hpre
    exact .inr ⟨new, hnew.symm⟩

/-! ### The phase -/

/-- A command word with `RSV` 0 is the word of its opcode and its operand field (R64). -/
theorem commandWord_fields {w : CommandWord} (h : rsvField w = 0) : commandWord (opField w) (immField w) = w := by
  rw [commandWord, ← h]
  ext k hk
  simp only [opField, rsvField, immField, BitVec.getElem_append, BitVec.getElem_extractLsb']
  split
  · simp [BitVec.getLsbD_eq_getElem hk]
  · split
    · rw [show 16 + (k - 16) = k by omega, BitVec.getLsbD_eq_getElem hk]
    · rw [show 20 + (k - 16 - 4) = k by omega, BitVec.getLsbD_eq_getElem hk]

/-- A byte operand is the whole operand field when the field's high byte is 0 (R66). -/
theorem setWidth_low_of_high_zero {imm : Addr} (h : imm.extractLsb' 8 8 = 0) : (imm.extractLsb' 0 8).setWidth 16 = imm := by
  have hhigh : imm.toNat >>> 8 % 2 ^ 8 = 0 := by simpa using congrArg BitVec.toNat h
  have hlt := imm.isLt
  refine BitVec.eq_of_toNat_eq ?_
  simp only [BitVec.toNat_setWidth, BitVec.extractLsb'_toNat, Nat.shiftRight_zero]
  omega

theorem decodeNone_instr {i j : Instr} {imm : Addr} (h : decodeNone j imm = .instr i) : i = j ∧ imm = 0 := by
  unfold decodeNone at h
  split at h
  · exact ⟨(Decoded.instr.inj h).symm, ‹_›⟩
  · cases h

theorem decodeByte_instr {i : Instr} {mk : Byte → Instr} {imm : Addr} (h : decodeByte mk imm = .instr i) :
    ∃ b, i = mk b ∧ b.setWidth 16 = imm := by
  unfold decodeByte at h
  split at h
  · exact ⟨_, (Decoded.instr.inj h).symm, setWidth_low_of_high_zero ‹_›⟩
  · cases h

/-- Fields that decode are those of the instruction's own word (R65, R66, R67). -/
theorem decodeFields_instr {op rsv : BitVec 4} {imm : Addr} {i : Instr} (h : decodeFields op rsv imm = .instr i) :
    rsv = 0 ∧ commandWordOf i = some (commandWord op imm) := by
  unfold decodeFields at h
  split at h
  · cases h
  rename_i hop
  split at h
  · cases h
  rename_i hrsv
  refine ⟨not_not.1 hrsv, ?_⟩
  split at h
  · obtain ⟨rfl, rfl⟩ := decodeNone_instr h; subst op; rfl
  split at h
  · obtain ⟨rfl, rfl⟩ := decodeNone_instr h; subst op; rfl
  split at h
  · obtain ⟨b, rfl, rfl⟩ := decodeByte_instr h; subst op; rfl
  split at h
  · obtain ⟨b, rfl, rfl⟩ := decodeByte_instr h; subst op; rfl
  split at h
  · obtain ⟨b, rfl, rfl⟩ := decodeByte_instr h; subst op; rfl
  split at h
  · cases h; subst op; rfl
  · obtain ⟨rfl, rfl⟩ := decodeNone_instr h
    have hop7 : op = 7 := by bv_omega
    subst hop7; rfl

/-- The word a command is decoded from is its own word (R65, R66). -/
theorem commandWordOf_decodeCommand {w : CommandWord} {i : Instr} (h : decodeCommand w = .instr i) : commandWordOf i = some w := by
  obtain ⟨hrsv, hw⟩ := decodeFields_instr h
  rwa [commandWord_fields hrsv] at hw

theorem State.perform_phase (s : State) (e : MicroEvent) {done : State → State} (hd : ∀ x, (done x).phase = x.phase) :
    (s.perform e done).phase = s.phase := by
  rcases State.perform_cases s e done with hp | ⟨_, _, hp⟩ <;> rw [hp]
  · rw [hd]
    simp
  · simp

/-- Of the rows of R124 only S0 and S11 write the phase. -/
theorem State.microStep_phase (s : State) {u : Upc} (c : Nat) (h : ¬ (u = .s0 ∨ u = .s11)) : (s.microStep u c).phase = s.phase := by
  refine State.perform_phase s _ fun x => ?_
  cases u
  case s0 | s11 => simp at h
  all_goals rfl

theorem State.start_phase (i : Instr) (events : List MicroEvent) (s : State) : (s.start i events).phase = s.phase := by
  rcases State.takeCommand_cases i _ s with ⟨_, hp⟩ | ⟨_, _, hp⟩ <;> rw [State.start, hp]
  · unfold State.runPending
    split
    · rfl
    · exact State.perform_phase { s with word := commandWordOf i, pending := events } _ fun _ => rfl
  · rfl

/-- Every instruction but ENABLE, DISABLE and TRANSFER keeps the phase (R26). -/
theorem exec_phase {i : Instr} {s t : State} (h : exec i s = .next t) (hi : ¬ (i = .enable ∨ i = .disable ∨ i = .transfer)) :
    t.phase = s.phase := by
  cases i <;> obtain rfl := Host.Outcome.next.inj h
  case enable | disable | transfer => simp at hi
  case wrData | wrCtrl => exact State.perform_phase _ _ fun _ => rfl
  all_goals exact State.start_phase _ _ _

/-- Settles O51: of the rows of R124 only S0 and S11 write the phase, and of the host's moves only a port open and the three session
commands, each of which has one word. -/
theorem onlySessionCommandsChangePhase : Obligations.OnlySessionCommandsChangePhase := by
  intro s t h hne
  by_contra hnot
  obtain ⟨hrow, hmove⟩ := not_or.1 hnot
  refine hne ?_
  apply step_elim (P := fun u => u.phase = s.phase) h
  case boundary => exact fun u hu => by simpa using hu
  case pending => exact fun e _ _ => State.perform_phase s e fun _ => rfl
  case row => exact fun u c hu => State.microStep_phase s c fun hn => hrow ⟨u, hu, hn⟩
  case command =>
    intro w i rest u hb hm hi hu
    have hw := commandWordOf_decodeCommand hi
    refine (exec_phase hu ?_ :)
    rintro (rfl | rfl | rfl) <;> cases hw <;> exact hmove ⟨hb, _, by rw [hm]; rfl, by decide⟩
  case opens => exact fun rest hb hm => absurd ⟨hb, _, by rw [hm]; rfl, .inl rfl⟩ hmove
  all_goals intros; rfl

/-! ### The closed port -/

/-- What the block reaches through the port, and the trace of it (R21, R22, R24, R31, R33). -/
abbrev State.portSide (s : State) : Option Byte × Option Byte × Latch × Latch × Memory × Nat × List Event :=
  (s.dr, s.cr, s.latLo, s.latHi, s.dev, s.devEpoch, s.trace)

/-- With the port closed no command is in execution and nothing is known of the port's registers (R36, R171). -/
theorem State.Inv.closed {s : State} (h : s.Inv) (hr : s.Running) (hc : s.portOpen = false) :
    s.Between ∧ s.dr = none ∧ s.cr = none := by
  have hs := h.sequencer hr.1 hr.2.1
  unfold State.SequencerOk at hs
  split at hs
  · rename_i hu
    obtain ⟨-, -, -, hclosed⟩ := hs
    obtain ⟨hp, hdr, hcr⟩ := hclosed hc
    exact ⟨⟨hp, hu⟩, hdr, hcr⟩
  · obtain ⟨-, ho, -⟩ := hs
    simp [hc] at ho

/-- With the port closed every command raises `PortNotOpen` and does nothing else (R147). -/
theorem exec_closed {i : Instr} {s : State} (hc : s.portOpen = false) (hd : ∀ v, i ≠ .wrData v) (hk : ∀ v, i ≠ .wrCtrl v) :
    exec i s = .next (s.faulted i .portNotOpen) := by
  have ha := admission_closed hc i
  cases i with
  | wrData v => exact absurd rfl (hd v)
  | wrCtrl v => exact absurd rfl (hk v)
  | _ => exact congrArg Host.Outcome.next (State.takeCommand_raises ha _)

/-- Settles O50: with the port closed nothing is in execution, every command is refused at its admission, and a port close finds
the port's registers unknown already. -/
theorem closedPortIsNotTouched : Obligations.ClosedPortIsNotTouched := by
  intro s t hinv hc hab hop h
  obtain ⟨hb, hdr, hcr⟩ := hinv.closed (running_of_stopped (step_cases h).1) hc
  have hkeep : t.portSide = s.portSide ∧ t.portOpen = false := by
    apply step_elim (P := fun u => u.portSide = s.portSide ∧ u.portOpen = false) h
    case boundary => exact fun u hu => by simpa using hu
    case abort => exact fun ha => absurd ha hab
    case pending => exact fun e rest hp => by simp [hb.1] at hp
    case row => exact fun u c hu => by simp [hb.2] at hu
    case command =>
      intro w i rest u _ _ hi hu
      obtain ⟨hd, hk⟩ := decodeCommand_command hi
      rw [exec_closed (s := { s with hostMoves := rest }) hc hd hk] at hu
      obtain rfl := Host.Outcome.next.inj hu
      exact ⟨rfl, hc⟩
    case opens => exact fun rest _ hm => absurd (by simp [hm]) hop
    case closes => exact fun rest => ⟨by simp [hdr, hcr], rfl⟩
    all_goals intros; exact ⟨rfl, hc⟩
  obtain ⟨hside, ho⟩ := hkeep
  have hparams : t.params = s.params := (inputsNeverChange s t h).1
  simp only [Prod.mk.injEq] at hside
  obtain ⟨hdr, hcr, hlo, hhi, hdev, hepoch, htrace⟩ := hside
  exact ⟨hdr, hcr, by simp only [State.lines, hcr, hparams], hlo, hhi, hdev,
    fun cell => by simp only [State.devCell, State.devKnown, hdev, hepoch], htrace, ho⟩

/-! ### Reset and the port open -/

/-- Between commands the step that proceeds is the host's next move (R83 case 3). -/
theorem advance_hostMove {s : State} {m : HostMove} {rest : List HostMove} (hb : s.Between) (hm : s.hostMoves = m :: rest) :
    advance s = hostMove m { s with hostMoves := rest } := by
  obtain ⟨hp, hu⟩ := hb
  simp only [advance, hp, hu, hm]

/-- Between commands a running machine without choices takes the host's next move (R83). -/
theorem step_hostMove {s t : State} {m : HostMove} {rest : List HostMove} (hr : s.Running) (hb : s.Between) (hch : s.choices = [])
    (hm : s.hostMoves = m :: rest) (ht : hostMove m { s with hostMoves := rest } = .next t) : step s = .next t := by
  have ha : advance s = .next t := (advance_hostMove hb hm).trans ht
  rw [step_proceeds hr hch, ha, onNext, consumeChoice_of_nil ((advance_choices ha).trans hch)]

/-- Settles O11: the host's move is the step, and after a failed open the host has exited. -/
theorem portOpenGivesResetState : Obligations.PortOpenGivesResetState := by
  refine ⟨fun s rest hr hb hch hm => ?_, fun s rest hr hb hch hm => ?_⟩
  · refine ⟨_, step_hostMove hr hb hch hm rfl, ?_⟩
    simp [State.lines, State.devKnown, Memory.read]
  · refine ⟨_, step_hostMove hr hb hch hm rfl, rfl, rfl, rfl, ?_⟩
    simp [step, stepOnce, stopped, hr.1, hr.2.1]

/-- Settles O12: the values of `State.reset`, field by field. -/
theorem resetStateValues : Obligations.ResetStateValues :=
  ⟨rfl, rfl, rfl, rfl, rfl, fun _ => rfl, rfl, rfl, rfl, rfl, rfl, rfl, rfl, rfl⟩

/-- Settles O41: the reset state stands outside a session with its control register unknown. -/
theorem invariantAtReset : Obligations.InvariantAtReset where
  params := by decide
  dev := State.reset_memory_wf.1
  buf := State.reset_memory_wf.2
  size := by decide
  sequencer := fun _ _ => ⟨rfl, nofun, fun _ _ => ⟨rfl, .inl rfl⟩, nofun⟩

end Sys2Proof.Machine
end

section
/-! SUPPORT. The memories: the tiled buffer (R42), and what a completed control write adds to the trace and makes of the latches and
of the target (R44 to R50). -/

namespace Sys2Proof.Machine

/-! ### The buffer and the cells of the target -/

/-- The buffer sizes of R11 are the powers of two up to 65536. -/
theorem bufSizeOk_iff {n : Nat} : bufSizeOk n = true ↔ ∃ j ≤ 16, n = 2 ^ j := by
  simp [bufSizeOk, Nat.lt_succ_iff]

/-- Stepping by `N` stays on the same buffer index, since `N` divides the address space (R42). -/
theorem bufIndex_add_size (a : Addr) {n : Nat} (h : n ∣ 2 ^ 16) : bufIndex (a + BitVec.ofNat 16 n) n = bufIndex a n := by
  simp only [bufIndex, BitVec.toNat_add, BitVec.toNat_ofNat]
  rw [Nat.mod_mod_of_dvd _ h, Nat.add_mod, Nat.mod_mod_of_dvd _ h, Nat.mod_self, Nat.add_zero, Nat.mod_mod]

/-- Settles O39: a power of two up to 65536 divides the address space, and its remainder is a mask. -/
theorem bufferIsTiled : Obligations.BufferIsTiled := by
  intro s a hn
  obtain ⟨j, hj, hN⟩ := bufSizeOk_iff.1 hn
  refine ⟨?_, ?_, ?_⟩
  · rw [hN, Nat.and_two_pow_sub_one_eq_mod]
    rfl
  · rw [hN]
    exact Nat.mod_lt _ (Nat.two_pow_pos j)
  · have hdvd : s.bufSize ∣ 2 ^ 16 := hN ▸ Nat.pow_dvd_pow 2 hj
    simp only [State.bufByte, bufIndex_add_size a hdvd]

/-- Settles O21: the write is one `Memory.write` at the cell `a mod 2^k`. -/
theorem deviceWriteTouchesOneCell : Obligations.DeviceWriteTouchesOneCell := by
  intro s a v cell
  rw [State.devWritten, Memory.read_write]
  by_cases hc : cell = s.devAddr a
  · rw [if_pos hc, hc]
    refine Eq.trans ?_ (if_pos rfl).symm
    cases s.params.deviceWrite <;> rfl
  · rw [if_neg hc]
    exact (if_neg hc).symm

/-! ### What a completed control write does -/

/-- A data write that does not fail (R80). -/
theorem exec_wrData_ok {s : State} (h : s.writeFails = false) (v : Byte) : exec (.wrData v) s = .next (s.writeData v) :=
  congrArg Host.Outcome.next (State.perform_ok h id)

/-- A control write that does not fail (R81). -/
theorem exec_wrCtrl_ok {s : State} (h : s.writeFails = false) (v : Byte) : exec (.wrCtrl v) s = .next (s.writeCtrl v) :=
  congrArg Host.Outcome.next (State.perform_ok h id)

/-- The event of a reaction of the device, the free value's index being `draw` (R47, R48). -/
def DeviceReaction.events (draw : Nat) : DeviceReaction → List Event
  | .quiet => []
  | .write h l d => [.devw (some h) (some l) (some d)]
  | .unknown h l d => [.devw h l d]
  | .spurious => if Config.drawTaken draw then [.devw none none none] else []

theorem State.deviceReact_trace (s : State) (r : DeviceReaction) :
    (s.deviceReact r).trace = s.trace ++ r.events s.draws := by
  cases r with
  | quiet => exact (List.append_nil _).symm
  | _ => rfl

theorem newEvents_of_append {s t : State} {new : List Event} (h : t.trace = s.trace ++ new) : newEvents s t = new := by
  rw [newEvents, h, List.drop_left]

theorem newEvents_of_trace_eq {s t : State} (h : t.trace = s.trace) : newEvents s t = [] :=
  newEvents_of_append (h.trans (List.append_nil _).symm)

section completed
variable {s : State} {v : Byte} {n : Lines} (h : physInv s.params v = some n)
include h

theorem writeCtrl_eq_react : s.writeCtrl v = (s.storeCtrl v).react s.lines n := by
  rw [State.writeCtrl, h]

theorem writeCtrl_latLo : (s.writeCtrl v).latLo = (latchReaction .addrLowInv s.lines n s.dr).latch s.latLo := by
  simp [writeCtrl_eq_react h, State.react]

theorem writeCtrl_latHi : (s.writeCtrl v).latHi = (latchReaction .addrHighInv s.lines n s.dr).latch s.latHi := by
  simp [writeCtrl_eq_react h, State.react]

theorem writeCtrl_dev : (s.writeCtrl v).dev = (s.deviceReact (deviceReaction s.lines n s)).dev := by
  rw [writeCtrl_eq_react h, State.react_dev]
  have hr : deviceReaction s.lines n (s.storeCtrl v) = deviceReaction s.lines n s := rfl
  rw [hr]
  cases deviceReaction s.lines n s <;> rfl

/-- The new events of a control write, in the order of R81. -/
theorem newEvents_writeCtrl : newEvents s (s.writeCtrl v) =
    .wc v :: (deviceReaction s.lines n s).events s.draws ++
      (latchReaction .addrLowInv s.lines n s.dr).events .capLo ++
      (latchReaction .addrHighInv s.lines n s.dr).events .capHi := by
  refine newEvents_of_append ?_
  have hr : deviceReaction s.lines n (s.storeCtrl v) = deviceReaction s.lines n s := rfl
  simp [writeCtrl_eq_react h, State.react, State.deviceReact_trace, hr]

end completed

/-! ### Picking one observer's events out of a control write -/

theorem DeviceReaction.filter_events {p : Event → Bool} (hp : ∀ h l d, p (.devw h l d) = true) (draw : Nat) (r : DeviceReaction) :
    (r.events draw).filter p = r.events draw := by
  cases r with
  | spurious => unfold DeviceReaction.events; split <;> simp [hp]
  | _ => simp [DeviceReaction.events, hp]

theorem DeviceReaction.filter_events_other {p : Event → Bool} (hp : ∀ h l d, p (.devw h l d) = false) (draw : Nat)
    (r : DeviceReaction) : (r.events draw).filter p = [] := by
  cases r with
  | spurious => unfold DeviceReaction.events; split <;> simp [hp]
  | _ => simp [DeviceReaction.events, hp]

theorem LatchReaction.filter_events {p : Event → Bool} {cap : Option Byte → Event} (hp : ∀ x, p (cap x) = true)
    (r : LatchReaction) : (r.events cap).filter p = r.events cap := by
  cases r <;> simp [LatchReaction.events, hp]

theorem LatchReaction.filter_events_other {p : Event → Bool} {cap : Option Byte → Event} (hp : ∀ x, p (cap x) = false)
    (r : LatchReaction) : (r.events cap).filter p = [] := by
  cases r <;> simp [LatchReaction.events, hp]

section observers
variable {s : State} {v : Byte} {n : Lines} (h : physInv s.params v = some n)
include h

theorem newCapLo_writeCtrl : (newEvents s (s.writeCtrl v)).filter Event.isCapLo =
    (latchReaction .addrLowInv s.lines n s.dr).events .capLo := by
  rw [newEvents_writeCtrl h, List.filter_append, List.filter_append, List.filter_cons_of_neg Bool.false_ne_true,
    DeviceReaction.filter_events_other fun _ _ _ => rfl, LatchReaction.filter_events fun _ => rfl,
    LatchReaction.filter_events_other fun _ => rfl, List.nil_append, List.append_nil]

theorem newCapHi_writeCtrl : (newEvents s (s.writeCtrl v)).filter Event.isCapHi =
    (latchReaction .addrHighInv s.lines n s.dr).events .capHi := by
  rw [newEvents_writeCtrl h, List.filter_append, List.filter_append, List.filter_cons_of_neg Bool.false_ne_true,
    DeviceReaction.filter_events_other fun _ _ _ => rfl, LatchReaction.filter_events_other fun _ => rfl,
    LatchReaction.filter_events fun _ => rfl, List.append_nil, List.nil_append]

theorem newDevw_writeCtrl : (newEvents s (s.writeCtrl v)).filter Event.isDevw =
    (deviceReaction s.lines n s).events s.draws := by
  rw [newEvents_writeCtrl h, List.filter_append, List.filter_append, List.filter_cons_of_neg Bool.false_ne_true,
    DeviceReaction.filter_events fun _ _ _ => rfl, LatchReaction.filter_events_other fun _ => rfl,
    LatchReaction.filter_events_other fun _ => rfl, List.append_nil, List.append_nil]

end observers

/-! ### The latches -/

/-- R44 and R45, for the latch on the line `x`: `l` is the latch after a control write from the lines `o` to `n`, and `evs` are its
capture events, `old` being the latch and `dr` the data register before the write. -/
def LatchFollows (x : Line) (cap : Option Byte → Event) (o : Option Lines) (n : Lines) (dr : Option Byte) (old l : Latch)
    (evs : List Event) : Prop :=
  match o with
  | none => if n.getLsbD x.bit then l = .unknown ∧ evs = [cap none] else l = .opened ∧ evs = []
  | some o =>
    if o.getLsbD x.bit ∧ ¬ n.getLsbD x.bit then l = .opened ∧ evs = []
    else if ¬ o.getLsbD x.bit ∧ n.getLsbD x.bit then
      match dr with
      | none => l = .unknown ∧ evs = [cap none]
      | some b => l = .held b ∧ evs = [cap (some b)]
    else l = old ∧ evs = []

/-- The reaction is R44's, whichever latch it is (R45). -/
theorem latchFollows_latchReaction (x : Line) (cap : Option Byte → Event) (o : Option Lines) (n : Lines) (dr : Option Byte)
    (old : Latch) :
    LatchFollows x cap o n dr old ((latchReaction x o n dr).latch old) ((latchReaction x o n dr).events cap) := by
  cases o with
  | none =>
    cases hn : n.getLsbD x.bit <;>
      simp [LatchFollows, latchReaction, Line.level, hn, LatchReaction.latch, LatchReaction.events]
  | some o =>
    cases ho : o.getLsbD x.bit <;> cases hn : n.getLsbD x.bit
    case false.true =>
      cases dr <;> simp [LatchFollows, latchReaction, Line.falling, Line.rising, Line.level, ho, hn, LatchReaction.latch,
        LatchReaction.events]
    all_goals simp [LatchFollows, latchReaction, Line.falling, Line.rising, Line.level, ho, hn, LatchReaction.latch,
      LatchReaction.events]

/-- A latch does not react while its line is steady at 1 (R46). -/
theorem latchReaction_steady {x : Line} {o n : Lines} (dr : Option Byte) (ho : o.getLsbD x.bit = true)
    (hn : n.getLsbD x.bit = true) : latchReaction x (some o) n dr = .keep := by
  simp [latchReaction, Line.falling, Line.rising, Line.level, ho, hn]

/-- Settles O17: R44's reaction, read off the new state and its new events. -/
theorem lowLatchReaction : Obligations.LowLatchReaction := by
  intro v n s hw hn
  refine ⟨_, exec_wrCtrl_ok hw v, ?_⟩
  rw [writeCtrl_latLo hn, newCapLo_writeCtrl hn]
  exact latchFollows_latchReaction .addrLowInv .capLo s.lines n s.dr s.latLo

/-- Settles O18: the same reaction on the high latch's line. -/
theorem highLatchReaction : Obligations.HighLatchReaction := by
  intro v n s hw hn
  refine ⟨_, exec_wrCtrl_ok hw v, ?_⟩
  rw [writeCtrl_latHi hn, newCapHi_writeCtrl hn]
  exact latchFollows_latchReaction .addrHighInv .capHi s.lines n s.dr s.latHi

/-- Settles O19: a data write touches no latch, and a latch whose line is steady does not react. -/
theorem heldLatchKeepsItsByte : Obligations.HeldLatchKeepsItsByte := by
  intro b v s t hw
  refine ⟨fun h => ?_, fun o n ho hn h => ?_⟩
  · obtain rfl := Host.Outcome.next.inj ((exec_wrData_ok hw v).symm.trans h)
    exact ⟨id, id⟩
  · obtain rfl := Host.Outcome.next.inj ((exec_wrCtrl_ok hw v).symm.trans h)
    rw [writeCtrl_latLo hn, writeCtrl_latHi hn, ho]
    refine ⟨fun hb hox hnx => ?_, fun hb hox hnx => ?_⟩
    · rw [latchReaction_steady (x := .addrLowInv) s.dr hox hnx]
      exact hb
    · rw [latchReaction_steady (x := .addrHighInv) s.dr hox hnx]
      exact hb

/-! ### The target -/

/-- The high address byte the device sees, on the bits of the lines (R25, R47). -/
theorem presentedByte_high (o n : Lines) (l : Latch) : presentedByte .addrHighInv o n l =
    if o.getLsbD 2 ∧ n.getLsbD 2 then (match l with | .held b => some b | _ => none) else none := by
  cases l <;> simp [presentedByte, Line.steadyHigh, Line.level, Line.bit]

/-- The low address byte the device sees, on the bits of the lines (R25, R47). -/
theorem presentedByte_low (o n : Lines) (l : Latch) : presentedByte .addrLowInv o n l =
    if o.getLsbD 1 ∧ n.getLsbD 1 then (match l with | .held b => some b | _ => none) else none := by
  cases l <;> simp [presentedByte, Line.steadyHigh, Line.level, Line.bit]

/-- The write R47 and the first case of R48 give for the presented bytes `hi` and `lo` and the data `d`: `dev` is the target after
it and `evs` are its events. -/
def StrobeWrites (s : State) (hi lo d : Option Byte) (dev : Memory) (evs : List Event) : Prop :=
  match hi, lo, d with
  | some h, some l, some d => dev = s.devWritten (joinAddr h l) d ∧ evs = [.devw (some h) (some l) (some d)]
  | _, _, _ => dev = s.devWritten (Config.drawAddr s.draws) (Config.drawByte s.draws) ∧ evs = [.devw hi lo d]

section reaction
variable {s : State} {o n : Lines}

/-- The strobe's falling edge on the bits of the lines (R43). -/
theorem strobe_falling_iff : Line.dataStrobe.falling o n = true ↔ o.getLsbD 3 = true ∧ n.getLsbD 3 = false := by
  simp only [Line.falling, Line.level, Line.bit, Bool.and_eq_true, Bool.not_eq_true']

/-- `PROGRAM` steady at 1 on the bits of the lines (R47). -/
theorem program_steady_iff : (Line.program.level o && Line.program.level n) = true ↔ o.getLsbD 0 = true ∧ n.getLsbD 0 = true :=
  Bool.and_eq_true_iff

/-- `PROGRAM` at 1 on some side, on the bits of the lines (R48). -/
theorem program_either_iff : (Line.program.level o || Line.program.level n) = true ↔ o.getLsbD 0 = true ∨ n.getLsbD 0 = true :=
  Bool.or_eq_true_iff

/-- The strobe's falling edge with `PROGRAM` steady at 1 writes what is presented (R47, R48). -/
theorem strobeWrites_deviceReaction (hs : o.getLsbD 3 = true ∧ n.getLsbD 3 = false)
    (hp : o.getLsbD 0 = true ∧ n.getLsbD 0 = true) :
    StrobeWrites s (presentedByte .addrHighInv o n s.latHi) (presentedByte .addrLowInv o n s.latLo) s.dr
      (s.deviceReact (deviceReaction (some o) n s)).dev ((deviceReaction (some o) n s).events s.draws) := by
  simp only [deviceReaction]
  rw [if_pos (strobe_falling_iff.2 hs), if_pos (program_steady_iff.2 hp)]
  generalize presentedByte .addrHighInv o n s.latHi = hi
  generalize presentedByte .addrLowInv o n s.latLo = lo
  generalize s.dr = d
  cases hi <;> cases lo <;> cases d <;> exact ⟨rfl, rfl⟩

/-- The strobe's falling edge with `PROGRAM` at 1 on one side only may have written (R48). -/
theorem deviceReaction_spurious (hs : o.getLsbD 3 = true ∧ n.getLsbD 3 = false)
    (hp : ¬ (o.getLsbD 0 = true ∧ n.getLsbD 0 = true)) (hp' : o.getLsbD 0 = true ∨ n.getLsbD 0 = true) :
    deviceReaction (some o) n s = .spurious := by
  simp only [deviceReaction]
  rw [if_pos (strobe_falling_iff.2 hs), if_neg (mt program_steady_iff.1 hp), if_pos (program_either_iff.2 hp')]

/-- The strobe's falling edge outside programming mode writes nothing (R47). -/
theorem deviceReaction_unprogrammed (hp : ¬ (o.getLsbD 0 = true ∨ n.getLsbD 0 = true)) :
    deviceReaction (some o) n s = .quiet := by
  simp only [deviceReaction]
  rw [if_neg fun h => hp (.inl (program_steady_iff.1 h).1), if_neg (mt program_either_iff.1 hp), ite_self]

/-- Without a falling edge of the strobe the target does nothing (R47). -/
theorem deviceReaction_noEdge (hs : ¬ (o.getLsbD 3 = true ∧ n.getLsbD 3 = false)) :
    deviceReaction (some o) n s = .quiet :=
  if_neg (mt strobe_falling_iff.1 hs)

/-- From unknown lines the target may have written if the strobe is low and `PROGRAM` high afterwards (R48). -/
theorem deviceReaction_fromUnknown (n : Lines) (s : State) : deviceReaction none n s =
    if n.getLsbD 3 = false ∧ n.getLsbD 0 = true then .spurious else .quiet := by
  simp [deviceReaction, Line.level, Line.bit]

end reaction

/-- A write that may have happened has happened or not, as the free value says (R48). -/
theorem spurious_cases (s : State) :
    if Config.drawTaken s.draws then
      (s.deviceReact .spurious).dev = s.devWritten (Config.drawAddr s.draws) (Config.drawByte s.draws) ∧
        DeviceReaction.spurious.events s.draws = [.devw none none none]
    else (s.deviceReact .spurious).dev = s.dev ∧ DeviceReaction.spurious.events s.draws = [] := by
  split
  · exact ⟨if_pos ‹_›, if_pos ‹_›⟩
  · exact ⟨if_neg ‹_›, if_neg ‹_›⟩

/-- Settles O20: R47's and R48's cases, along the branches of the model's reaction. -/
theorem deviceReactionCases : Obligations.DeviceReactionCases := by
  intro v n s hw hn
  refine ⟨_, exec_wrCtrl_ok hw v, ?_⟩
  rw [writeCtrl_dev hn, newDevw_writeCtrl hn]
  dsimp only
  cases s.lines with
  | none =>
    rw [deviceReaction_fromUnknown]
    dsimp only
    split
    · exact spurious_cases s
    · exact ⟨rfl, rfl⟩
  | some o =>
    dsimp only
    by_cases hs : o.getLsbD 3 = true ∧ n.getLsbD 3 = false
    · rw [if_pos hs]
      by_cases hp : o.getLsbD 0 = true ∧ n.getLsbD 0 = true
      · rw [if_pos hp]
        have hwrites := strobeWrites_deviceReaction (s := s) hs hp
        rw [presentedByte_high, presentedByte_low] at hwrites
        exact hwrites
      · rw [if_neg hp]
        by_cases hp' : o.getLsbD 0 = true ∨ n.getLsbD 0 = true
        · rw [if_pos hp', deviceReaction_spurious hs hp hp']
          exact spurious_cases s
        · rw [if_neg hp', deviceReaction_unprogrammed hp']
          exact ⟨rfl, rfl⟩
    · rw [if_neg hs, deviceReaction_noEdge hs]
      exact ⟨rfl, rfl⟩

end Sys2Proof.Machine
end

section
/-! SUPPORT. Why a session emits no device write with an unknown part: every control write of a session leads from one named state to
another, and the one that ends a strobe pulse finds both latches held and `DR` known (R48, R63). -/

namespace Sys2Proof.Machine

/-! ### Control writes that write known bytes at known addresses -/

/-- The events added from `s` to `t` hold no device write with an unknown part (R48). -/
abbrev State.OnlyKnownWrites (s t : State) : Prop := (newEvents s t).filter Event.isUnknownWrite = []

/-- The micro-event is no control write, or leads from one named state to another, and ends a strobe pulse only with both latches
held and `DR` known (R47, R63). -/
def State.WritesKnown (s : State) (e : MicroEvent) : Prop :=
  ∀ v, e = .wrCtrl v → ∃ c d, s.holds c ∧ v = ctrlByte s.params d ∧
    (c = .strobe → d = .idle ∧ s.latHi.isHeld = true ∧ s.latLo.isHeld = true ∧ s.dr.isSome = true)

theorem State.onlyKnownWrites_of_trace_eq {s t : State} (h : t.trace = s.trace) : s.OnlyKnownWrites t := by
  rw [State.OnlyKnownWrites, newEvents_of_trace_eq h, List.filter_nil]

theorem State.onlyKnownWrites_of_append {s t : State} {new : List Event} (h : t.trace = s.trace ++ new)
    (hn : new.filter Event.isUnknownWrite = []) : s.OnlyKnownWrites t := by
  rw [State.OnlyKnownWrites, newEvents_of_append h, hn]

theorem Latch.eq_held_of_isHeld {l : Latch} (h : l.isHeld = true) : ∃ b, l = .held b := by
  cases l with
  | held b => exact ⟨b, rfl⟩
  | unknown => cases h
  | opened => cases h

/-- Only `C_STROBE` has the strobe asserted (R62). -/
theorem Control.strobe_low {c : Control} (h : c ≠ .strobe) : c.lines.getLsbD 3 = false := by
  cases c with
  | strobe => exact absurd rfl h
  | _ => rfl

/-- What is left of a command in execution writes known bytes at known addresses (R63). -/
theorem writesKnown_of_pendingOk {s : State} {c : Control} {e : MicroEvent} {rest : List MicroEvent} (hc : s.holds c)
    (h : pendingOk s.params c s.latHi.isHeld s.latLo.isHeld s.dr.isSome (e :: rest)) : s.WritesKnown e := by
  rintro v rfl
  cases c with
  | off => exact h.elim
  | idle =>
    obtain ⟨rfl, -⟩ | ⟨rfl, -⟩ | ⟨rfl, -⟩ := h <;> exact ⟨.idle, _, hc, rfl, nofun⟩
  | highOpen => exact ⟨.highOpen, .idle, hc, h.1, nofun⟩
  | lowOpen => exact ⟨.lowOpen, .idle, hc, h.1, nofun⟩
  | strobe =>
    obtain ⟨rfl, hhi, hlo, hdr, -⟩ := h
    exact ⟨.strobe, .idle, hc, rfl, fun _ => ⟨rfl, hhi, hlo, hdr⟩⟩

/-- Taking a command adds only known writes if its first step does (R83). -/
theorem State.takeCommand_onlyKnownWrites {s : State} {i : Instr} {run : State → State}
    (h : admission i s = none → s.OnlyKnownWrites (run { s with word := commandWordOf i })) :
    s.OnlyKnownWrites (s.takeCommand i run) := by
  rcases State.takeCommand_cases i run s with ⟨ha, ht⟩ | ⟨f, -, ht⟩ <;> rw [ht]
  · exact h ha
  · exact State.onlyKnownWrites_of_trace_eq rfl

section known
variable {s : State} (hp : paramsWf s.params = true)
include hp

/-- A control write between named states that does not end a strobe pulse makes the target do nothing (R47). -/
theorem writeCtrl_onlyKnownWrites {c : Control} (hc : s.holds c) (hne : c ≠ .strobe) (d : Control) :
    s.OnlyKnownWrites (s.writeCtrl (ctrlByte s.params d)) := by
  have hq : deviceReaction (some c.lines) d.lines s = .quiet :=
    deviceReaction_noEdge fun h => Bool.false_ne_true ((Control.strobe_low hne).symm.trans h.1)
  rw [State.OnlyKnownWrites, newEvents_writeCtrl (physInv_ctrlByte hp d), lines_of_holds hp hc, hq, List.filter_append,
    List.filter_append, LatchReaction.filter_events_other fun _ => rfl, LatchReaction.filter_events_other fun _ => rfl]
  rfl

theorem State.apply_onlyKnownWrites {e : MicroEvent} (h : s.WritesKnown e) : s.OnlyKnownWrites (s.apply e) := by
  cases e with
  | wrData v => exact State.onlyKnownWrites_of_append rfl rfl
  | progress k => exact State.onlyKnownWrites_of_append rfl rfl
  | complete => exact State.onlyKnownWrites_of_append rfl rfl
  | wrCtrl v =>
    obtain ⟨c, d, hc, rfl, hstrobe⟩ := h v rfl
    by_cases hs : c = .strobe
    · obtain ⟨rfl, hhi, hlo, hdr⟩ := hstrobe hs
      obtain ⟨hi, hhi⟩ := Latch.eq_held_of_isHeld hhi
      obtain ⟨lo, hlo⟩ := Latch.eq_held_of_isHeld hlo
      obtain ⟨b, hdr⟩ := Option.isSome_iff_exists.1 hdr
      rw [State.apply, writeCtrl_strobe_idle hp (hs ▸ hc) hhi hlo hdr]
      exact State.onlyKnownWrites_of_append rfl rfl
    · exact writeCtrl_onlyKnownWrites hp hc hs d

variable (hf : s.writeFails = false)
include hf

theorem State.perform_onlyKnownWrites {e : MicroEvent} {done : State → State} (h : s.WritesKnown e)
    (hd : ∀ x, (done x).trace = x.trace) : s.OnlyKnownWrites (s.perform e done) := by
  rw [State.perform_ok hf, State.OnlyKnownWrites, newEvents, hd]
  exact State.apply_onlyKnownWrites hp h

/-- A command whose expansion does not begin with a control write (R72). -/
theorem State.start_onlyKnownWrites (i : Instr) {events : List MicroEvent} (h : ∀ v, events.head? ≠ some (.wrCtrl v)) :
    s.OnlyKnownWrites (s.start i events) := by
  refine State.takeCommand_onlyKnownWrites fun _ => ?_
  cases events with
  | nil => exact State.onlyKnownWrites_of_trace_eq rfl
  | cons e rest =>
    rw [State.runPending_cons rfl]
    exact State.perform_onlyKnownWrites (s := { s with word := commandWordOf i, pending := e :: rest }) hp hf
      (fun v hv => absurd (congrArg some hv) (h v)) fun _ => rfl

/-- In a session between commands every command of the host adds only known writes (R63). -/
theorem exec_onlyKnownWrites {i : Instr} {t : State} (hs : s.InSession) (hc : s.holds .idle) (hd : ∀ v, i ≠ .wrData v)
    (hk : ∀ v, i ≠ .wrCtrl v) (h : exec i s = .next t) : s.OnlyKnownWrites t := by
  have outside {j : Instr} (hj : wantedPhase j = .idle) : admission j s ≠ none := fun ha => by
    obtain ⟨-, hph, -⟩ := admission_none ha
    rw [hs.2, hj] at hph
    cases hph
  cases i <;> obtain rfl := Host.Outcome.next.inj h
  case wrData v => exact absurd rfl (hd v)
  case wrCtrl v => exact absurd rfl (hk v)
  case enable => exact State.takeCommand_onlyKnownWrites fun ha => absurd ha (outside rfl)
  case transfer => exact State.takeCommand_onlyKnownWrites fun ha => absurd ha (outside rfl)
  case disable =>
    refine State.takeCommand_onlyKnownWrites fun _ => ?_
    refine State.perform_onlyKnownWrites (s := { s with word := _, pending := expansion .disable s }) hp hf ?_ fun _ => rfl
    rintro v ⟨⟩
    exact ⟨.idle, .off, hc, rfl, nofun⟩
  case cycle a =>
    refine State.start_onlyKnownWrites hp hf _ fun v => ?_
    cases hpd : progressDue a.toNat <;> cases hr : relatchDue a <;>
      simp [expansion, cycleEvents, latchHighEvents, latchLowEvents, hpd, hr]
  all_goals exact State.start_onlyKnownWrites hp hf _ nofun

end known

/-! ### What the invariant says of a session -/

section session
variable {s : State} (hq : s.SequencerOk)
include hq

/-- Every event of the micro-program writes a known byte at a known address (R126). -/
theorem State.SequencerOk.row_writesKnown {u : Upc} (hu : s.upc = some u) (c : Nat) : s.WritesKnown (u.event c s) := by
  simp only [State.SequencerOk, hu] at hq
  obtain ⟨-, -, hc, hu⟩ := hq
  cases u with
  | s0 => exact hu.elim
  | s10 =>
    obtain ⟨-, c', -, -, hhi, hlo, hdr⟩ := hu
    rintro v ⟨⟩
    exact ⟨.strobe, .idle, hc, rfl, fun _ => ⟨rfl, by rw [hhi]; rfl, by rw [hlo]; rfl, by rw [hdr]; rfl⟩⟩
  | s1 | s2 | s5 | s8 | s12 => exact nofun
  | s3 | s4 | s6 | s7 | s9 | s11 =>
    rintro v ⟨⟩
    exact ⟨_, _, hc, rfl, nofun⟩

variable (hs : s.InSession)
include hs

theorem State.SequencerOk.pending_writesKnown {e : MicroEvent} {rest : List MicroEvent} (he : s.pending = e :: rest) :
    s.WritesKnown e := by
  unfold State.SequencerOk at hq
  split at hq
  · obtain ⟨-, hsession, -, -⟩ := hq
    obtain ⟨c, hc, hok⟩ := hsession hs.1 hs.2
    rw [he] at hok
    exact writesKnown_of_pendingOk hc hok
  · obtain ⟨hnil, -⟩ := hq
    cases hnil.symm.trans he

/-- Between the commands of a session the lines are `C_IDLE` (R93). -/
theorem State.SequencerOk.between_holds_idle (hb : s.Between) : s.holds .idle := by
  simp only [State.SequencerOk, hb.2] at hq
  obtain ⟨-, hsession, -, -⟩ := hq
  obtain ⟨c, hc, hok⟩ := hsession hs.1 hs.2
  rw [hb.1] at hok
  cases c with
  | idle => exact hc
  | _ => cases hok

end session

/-- Settles O48: each micro-event a step of a session can perform writes a known byte at a known address, or nothing. -/
theorem noUnknownWriteInSession : Obligations.NoUnknownWriteInSession := by
  intro s t hinv hr hs hf h
  have hq := hinv.sequencer hr.1 hr.2.1
  apply step_elim (P := s.OnlyKnownWrites) h
  case boundary => exact fun u hu => by simpa [newEvents] using hu
  case pending =>
    exact fun e rest he =>
      State.perform_onlyKnownWrites hinv.params hf (hq.pending_writesKnown hs he) fun _ => rfl
  case row =>
    exact fun u c hu => State.perform_onlyKnownWrites hinv.params hf (hq.row_writesKnown hu c) (u.finish_trace c)
  case command =>
    intro w i rest u hb _ hi hu
    obtain ⟨hd, hk⟩ := decodeCommand_command hi
    exact exec_onlyKnownWrites (s := { s with hostMoves := rest }) hinv.params hf hs (hq.between_holds_idle hs hb) hd hk hu
  case opens => exact fun rest _ _ => by simp [newEvents]
  all_goals intros; exact State.onlyKnownWrites_of_trace_eq rfl

end Sys2Proof.Machine
end

section
/-! SUPPORT. The encoding (R64 to R68): the fields of a command word, which words decode and to what, and which are illegal. -/

namespace Sys2Proof.Machine

/-! ### The fields of a command word -/

@[simp] theorem opField_commandWord (op : BitVec 4) (imm : Addr) : opField (commandWord op imm) = op :=
  (BitVec.extractLsb'_append_eq_of_le (by omega)).trans BitVec.extractLsb'_append_eq_left

@[simp] theorem rsvField_commandWord (op : BitVec 4) (imm : Addr) : rsvField (commandWord op imm) = 0 :=
  (BitVec.extractLsb'_append_eq_of_le (by omega)).trans BitVec.extractLsb'_append_eq_right

@[simp] theorem immField_commandWord (op : BitVec 4) (imm : Addr) : immField (commandWord op imm) = imm :=
  BitVec.extractLsb'_append_eq_right

/-- Decoding a word built from its fields is reading the opcode table (R65). -/
theorem decodeCommand_commandWord (op : BitVec 4) (imm : Addr) : decodeCommand (commandWord op imm) = decodeFields op 0 imm := by
  simp [decodeCommand]

/-- `IMM16[15:8]` is bits 15:8 of the word (R64). -/
theorem immField_high (w : CommandWord) : (immField w).extractLsb' 8 8 = w.extractLsb' 8 8 := by
  ext k hk
  simp [immField]

/-- A byte, widened to the operand field, decodes to itself (R66). -/
theorem decodeByte_setWidth (mk : Byte → Instr) (b : Byte) : decodeByte mk (b.setWidth 16) = .instr (mk b) := by
  have hhigh : (b.setWidth 16).extractLsb' 8 8 = 0 := by
    ext k hk
    simp
  have hlow : (b.setWidth 16).extractLsb' 0 8 = b := by
    simp [← BitVec.setWidth_eq_extractLsb']
  rw [decodeByte, if_pos hhigh, hlow]

/-- The selector bit of a micro-op word and the byte below it (R68). -/
theorem decodeMicro_append (sel : BitVec 1) (v : Byte) :
    decodeMicro (sel ++ v) = if sel.getLsbD 0 then .wrCtrl v else .wrData v := by
  have hsel : (sel ++ v).getLsbD 8 = sel.getLsbD 0 := BitVec.getLsbD_append
  have hv : (sel ++ v).extractLsb' 0 8 = v := BitVec.extractLsb'_append_eq_right
  rw [decodeMicro, hsel, hv]

/-! ### Decoding and encoding -/

/-- Settles O1: the fields of an encoded word are those it was built from, and the table gives the instruction back. -/
theorem decodeOfEncode : Obligations.DecodeOfEncode := by
  intro i
  cases i with
  | enable => rfl
  | disable => rfl
  | transfer => rfl
  | latchLow b => exact (decodeCommand_commandWord 3 _).trans (decodeByte_setWidth .latchLow b)
  | latchHigh b => exact (decodeCommand_commandWord 4 _).trans (decodeByte_setWidth .latchHigh b)
  | strobe b => exact (decodeCommand_commandWord 5 _).trans (decodeByte_setWidth .strobe b)
  | cycle a => exact decodeCommand_commandWord 6 a
  | wrData v => exact congrArg Decoded.instr (decodeMicro_append 0 v)
  | wrCtrl v => exact congrArg Decoded.instr (decodeMicro_append 1 v)

theorem encode_of_commandWordOf {i : Instr} {w : CommandWord} (h : commandWordOf i = some w) : encode i = .command w := by
  unfold commandWordOf at h
  split at h
  · rename_i w' he
    rw [he, Option.some.inj h]
  · cases h

/-- Settles O2: the word a command is decoded from is its own word. -/
theorem encodeOfDecode : Obligations.EncodeOfDecode :=
  fun _ _ h => encode_of_commandWordOf (commandWordOf_decodeCommand h)

/-- Settles O4: the words of R65 and R68, one of each row, evaluated. -/
theorem wordsDecodeAsTabled : Obligations.WordsDecodeAsTabled := by
  unfold Obligations.WordsDecodeAsTabled
  decide

/-! ### The illegal words -/

theorem decodeNone_illegal_iff (i : Instr) (imm : Addr) : (∃ r, decodeNone i imm = .illegal r) ↔ imm ≠ 0 := by
  unfold decodeNone
  split
  · simpa
  · exact iff_of_true ⟨_, rfl⟩ ‹_›

theorem decodeByte_illegal_iff (mk : Byte → Instr) (imm : Addr) :
    (∃ r, decodeByte mk imm = .illegal r) ↔ imm.extractLsb' 8 8 ≠ 0 := by
  unfold decodeByte
  split
  · simpa
  · exact iff_of_true ⟨_, rfl⟩ ‹_›

/-- An opcode of a row of R65 is one of the seven. -/
theorem opcode_cases {op : BitVec 4} (h : ¬ (op = 0 ∨ 8 ≤ op.toNat)) :
    op = 1 ∨ op = 2 ∨ op = 3 ∨ op = 4 ∨ op = 5 ∨ op = 6 ∨ op = 7 := by
  revert op
  decide

/-- Fields are illegal exactly in the four cases of R67. -/
theorem decodeFields_illegal_iff (op rsv : BitVec 4) (imm : Addr) :
    (∃ r, decodeFields op rsv imm = .illegal r) ↔
      op.toNat = 0 ∨ 8 ≤ op.toNat ∨ rsv ≠ 0 ∨ (op.toNat ∈ [3, 4, 5] ∧ imm.extractLsb' 8 8 ≠ 0) ∨
      (op.toNat ∈ [1, 2, 7] ∧ imm ≠ 0) := by
  by_cases hop : op = 0 ∨ 8 ≤ op.toNat
  · have hres : op.toNat = 0 ∨ 8 ≤ op.toNat := hop.imp_left (congrArg BitVec.toNat)
    rw [decodeFields, if_pos hop]
    exact iff_of_true ⟨_, rfl⟩ (by tauto)
  by_cases hrsv : rsv = 0
  · subst hrsv
    obtain rfl | rfl | rfl | rfl | rfl | rfl | rfl := opcode_cases hop
    · simpa [decodeFields] using decodeNone_illegal_iff .enable imm
    · simpa [decodeFields] using decodeNone_illegal_iff .disable imm
    · simpa [decodeFields] using decodeByte_illegal_iff .latchLow imm
    · simpa [decodeFields] using decodeByte_illegal_iff .latchHigh imm
    · simpa [decodeFields] using decodeByte_illegal_iff .strobe imm
    · simp [decodeFields]
    · simpa [decodeFields] using decodeNone_illegal_iff .transfer imm
  · rw [decodeFields, if_neg hop, if_pos hrsv]
    exact iff_of_true ⟨_, rfl⟩ (by tauto)

/-- Settles O3: the fields of the word decide, and the step that takes an illegal word is the host's move. -/
theorem illegalWordsFault : Obligations.IllegalWordsFault := by
  intro w
  refine ⟨?_, fun s rest r hr hb hch hm hi => ?_⟩
  · have hfields := decodeFields_illegal_iff (opField w) (rsvField w) (immField w)
    rwa [immField_high] at hfields
  · have hmove : hostMove (.command w) { s with hostMoves := rest } = .next (State.takeIllegal w { s with hostMoves := rest }) := by
      simp only [hostMove, hi]
    rw [step_hostMove hr hb hch hm hmove]
    simp only [State.takeIllegal, State.raise, hb.1, hb.2]

end Sys2Proof.Machine
end

section
/-! SUPPORT. The invariant step by step (R63, R93, R126): each of the moves of a step keeps the sequencer's part of it. -/

namespace Sys2Proof.Machine

/-- A micro-event that is performed and raises no fault has taken its effect (R83, R146). -/
theorem State.perform_eq_of_noFault {s : State} {e : MicroEvent} {done : State → State} (hf : (s.perform e done).fault = none) :
    s.perform e done = done (s.apply e) := by
  rcases State.perform_cases s e done with h | ⟨-, -, h⟩
  · exact h
  · rw [h, State.failWrite_fault] at hf
    cases hf

/-- While the micro-program runs, the sequencer's part of the invariant is that of its state (R28). -/
theorem State.SequencerOk.transferOk {s : State} (hs : s.SequencerOk) {u : Upc} (hu : s.upc = some u) : s.TransferOk u := by
  simpa only [State.SequencerOk, hu] using hs

section keeps
variable {s u : State}

/-- A port open gives a state outside a session with everything unknown (R36). -/
theorem sequencerOk_openPort (s : State) : s.openPort.SequencerOk :=
  ⟨rfl, nofun, fun _ _ => ⟨rfl, .inl rfl⟩, nofun⟩

/-- A port close between commands leaves nothing in execution and nothing known of the port (R171). -/
theorem sequencerOk_closePort (hs : s.SequencerOk) (hb : s.Between) : s.closePort.SequencerOk := by
  simp only [State.SequencerOk, hb.2, State.closePort_upc] at hs ⊢
  obtain ⟨hcursor, -, -, -⟩ := hs
  exact ⟨hcursor, nofun, nofun, fun _ => ⟨hb.1, rfl, rfl⟩⟩

/-- A move of the host that raises no fault keeps the session discipline (R83, R163, R171). -/
theorem sequencerOk_hostMove (hp : paramsWf s.params = true) (hs : s.SequencerOk) (hb : s.Between) {m : HostMove}
    (h : hostMove m s = .next u) (hf : u.fault = none) (ha : u.aborted = false) : u.SequencerOk := by
  obtain ⟨w, i, -, hi, hu⟩ | ⟨w, r, -, -, rfl⟩ | ⟨-, rfl⟩ | ⟨-, rfl⟩ | ⟨x, -, rfl⟩ := hostMove_cases h
  · exact sequencerOk_exec hp hs hb (decodeCommand_command hi) hu hf ha
  · cases hf
  · exact sequencerOk_openPort s
  · exact sequencerOk_closePort hs hb
  · exact hs

/-- A step that proceeds and raises no fault keeps the sequencer's part of the invariant (R83). -/
theorem sequencerOk_advance (hp : paramsWf s.params = true) (hs : s.SequencerOk) (h : advance s = .next u)
    (hf : u.fault = none) (ha : u.aborted = false) : u.SequencerOk := by
  obtain ⟨e, rest, hpend, rfl⟩ | ⟨-, q, c, hq, hc, rfl⟩ | ⟨hb, m, rest, -, hu⟩ := advance_cases h
  · rw [State.perform_eq_of_noFault hf]
    exact sequencerOk_pending hp hs hpend
  · rw [State.microStep, State.perform_eq_of_noFault hf]
    exact sequencerOk_row hp (hs.transferOk hq) hq hc
  · exact sequencerOk_hostMove (s := { s with hostMoves := rest }) hp hs hb hu hf ha

end keeps

/-- Settles O42: no step changes the inputs, every step keeps `DEV` canonical, and a step that neither faults nor aborts keeps the
sequencer's part. -/
theorem invariantKeptByStep : Obligations.InvariantKeptByStep := by
  intro s t hinv h
  obtain ⟨hparams, hbuf, hsize⟩ := inputsNeverChange s t h
  refine ⟨hparams ▸ hinv.params, deviceMemoryStaysCanonical s t hinv.dev h, ?_, hsize ▸ hinv.size, fun hf ha => ?_⟩
  · simpa only [State.bufWf, hbuf, hsize] using hinv.buf
  · obtain ⟨hstop, hcases⟩ := step_cases h
    have hr := running_of_stopped hstop
    have hs := hinv.sequencer hr.1 hr.2.1
    obtain ⟨-, rfl⟩ | ⟨-, -, rfl⟩ | ⟨u, hu, rfl⟩ := hcases
    · cases ha
    · exact (sequencerOk_consumeChoice s).2 hs
    · rw [sequencerOk_consumeChoice]
      exact sequencerOk_advance hinv.params hs hu (by simpa using hf) (by simpa using ha)

end Sys2Proof.Machine
end

section
/-! SUPPORT. The control lines of a session move one at a time (R63): every control write leads from one named state to another that
differs in one line. -/

namespace Sys2Proof.Machine

/-- The two named states have the same lines or differ in one line (R62). -/
abbrev Control.Adjacent (c d : Control) : Prop := c.lines ^^^ d.lines ∈ [(0x0 : Lines), 0x1, 0x2, 0x4, 0x8]

theorem Control.adjacent_refl (c : Control) : c.Adjacent c := by
  cases c <;> decide

/-- Every named state is one line from `C_IDLE` (R62). -/
theorem Control.idle_adjacent (d : Control) : Control.idle.Adjacent d := by
  cases d <;> decide

theorem Control.adjacent_idle (c : Control) : c.Adjacent .idle := by
  cases c <;> decide

/-- The lines stand in a named state, and the micro-event, if it is a control write, leads to one that differs in one line. -/
def State.WritesAdjacent (s : State) (e : MicroEvent) : Prop :=
  ∃ c, s.holds c ∧ ∀ v, e = .wrCtrl v → ∃ d, v = ctrlByte s.params d ∧ c.Adjacent d

/-- From `s` to `t` the lines move from one named state to itself or to one that differs in one line, unless `t` has faulted, or the
port is closed there or the run aborted. -/
def State.MovesOneLine (s t : State) : Prop :=
  t.fault = none → t.aborted = false → t.portOpen = true → ∃ c d : Control, s.holds c ∧ t.holds d ∧ c.Adjacent d

theorem Upc.finish_cr (u : Upc) (c : Nat) (t : State) : (u.finish c t).cr = t.cr := by
  cases u <;> rfl

section moves
variable {s : State}

theorem State.movesOneLine_of_cr_eq {t : State} (h : ∃ c, s.holds c) (hcr : t.cr = s.cr) (hp : t.params = s.params) :
    s.MovesOneLine t := by
  obtain ⟨c, hc⟩ := h
  exact fun _ _ _ => ⟨c, c, hc, by rwa [State.holds, hcr, hp], c.adjacent_refl⟩

/-- A micro-event that takes its effect moves the lines along its adjacency (R81). -/
theorem State.WritesAdjacent.apply {e : MicroEvent} (h : s.WritesAdjacent e) :
    ∃ c d : Control, s.holds c ∧ (s.apply e).holds d ∧ c.Adjacent d := by
  obtain ⟨c, hc, hw⟩ := h
  cases e with
  | wrCtrl v =>
    obtain ⟨d, rfl, hcd⟩ := hw v rfl
    exact ⟨c, d, hc, by simp [State.holds, State.apply], hcd⟩
  | _ => exact ⟨c, c, hc, hc, c.adjacent_refl⟩

theorem State.WritesAdjacent.perform {e : MicroEvent} (h : s.WritesAdjacent e) {done : State → State}
    (hcr : ∀ x, (done x).cr = x.cr) (hp : ∀ x, (done x).params = x.params) : s.MovesOneLine (s.perform e done) := by
  intro hf _ _
  obtain ⟨c, d, hc, hd, hcd⟩ := h.apply
  refine ⟨c, d, hc, ?_, hcd⟩
  rw [State.perform_eq_of_noFault hf, State.holds, hcr, hp]
  exact hd

/-- What is left of a command in execution follows the transitions of R63. -/
theorem writesAdjacent_of_pendingOk {c : Control} {hi lo dr : Bool} {e : MicroEvent} {rest : List MicroEvent} (hc : s.holds c)
    (h : pendingOk s.params c hi lo dr (e :: rest)) : s.WritesAdjacent e := by
  refine ⟨c, hc, ?_⟩
  rintro v rfl
  cases c with
  | off => exact h.elim
  | idle => obtain ⟨hv, -⟩ | ⟨hv, -⟩ | ⟨hv, -⟩ := h <;> exact ⟨_, hv, Control.idle_adjacent _⟩
  | highOpen | lowOpen | strobe => exact ⟨.idle, h.1, Control.adjacent_idle _⟩

/-- Every event of the micro-program follows the transitions of R63. -/
theorem State.TransferOk.writesAdjacent {u : Upc} (h : s.TransferOk u) (c : Nat) : s.WritesAdjacent (u.event c s) := by
  obtain ⟨-, -, hc, hu⟩ := h
  refine ⟨_, hc, ?_⟩
  cases u with
  | s0 => exact hu.elim
  | s1 | s2 | s5 | s8 | s12 => exact nofun
  | s3 | s6 | s9 | s11 => rintro v ⟨⟩; exact ⟨_, rfl, Control.idle_adjacent _⟩
  | s4 | s7 | s10 => rintro v ⟨⟩; exact ⟨.idle, rfl, Control.adjacent_idle _⟩

/-- Taking a command moves one line at most if its first step does (R83). -/
theorem State.takeCommand_movesOneLine {i : Instr} {run : State → State}
    (h : admission i s = none → s.MovesOneLine (run { s with word := commandWordOf i })) : s.MovesOneLine (s.takeCommand i run) := by
  obtain ⟨ha, ht⟩ | ⟨f, -, ht⟩ := State.takeCommand_cases i run s <;> rw [ht]
  · exact h ha
  · exact nofun

/-- With the lines at `C_IDLE`, every control write of a named state is one of R63. -/
theorem State.writesAdjacent_of_idle (hc : s.holds .idle) {e : MicroEvent}
    (h : ∀ v, e = .wrCtrl v → ∃ d, v = ctrlByte s.params d) : s.WritesAdjacent e := by
  refine ⟨.idle, hc, fun v hv => ?_⟩
  obtain ⟨d, hd⟩ := h v hv
  exact ⟨d, hd, d.idle_adjacent⟩

theorem cycleEvents_head (p : Params) (a : Addr) (d v : Byte) : (cycleEvents p a d).head? ≠ some (.wrCtrl v) := by
  cases hp : progressDue a.toNat <;> cases hr : relatchDue a <;>
    simp [cycleEvents, latchHighEvents, latchLowEvents, hp, hr]

/-- A command whose expansion does not begin with a control write leaves the lines at `C_IDLE` in its first step (R72). -/
theorem State.start_movesOneLine (hc : s.holds .idle) (i : Instr) {events : List MicroEvent}
    (h : ∀ v, events.head? ≠ some (.wrCtrl v)) : s.MovesOneLine (s.start i events) := by
  refine State.takeCommand_movesOneLine fun _ => ?_
  cases events with
  | nil => exact State.movesOneLine_of_cr_eq ⟨_, hc⟩ rfl rfl
  | cons e rest =>
    have hw : State.WritesAdjacent { s with word := commandWordOf i, pending := e :: rest } e :=
      State.writesAdjacent_of_idle hc fun v hv => absurd (congrArg some hv) (h v)
    rw [State.runPending_cons rfl]
    exact hw.perform (fun _ => rfl) fun _ => rfl

/-- A command that opens a session is refused inside one (R90, R122). -/
theorem admission_inSession (hs : s.InSession) {i : Instr} (hi : wantedPhase i = .idle) : admission i s ≠ none := by
  intro ha
  obtain ⟨-, hph, -⟩ := admission_none ha
  rw [hs.2, hi] at hph
  cases hph

/-- In a session between commands every command of the host moves one line at most (R63). -/
theorem exec_movesOneLine {i : Instr} {t : State} (hs : s.InSession) (hc : s.holds .idle) (hd : ∀ v, i ≠ .wrData v)
    (hk : ∀ v, i ≠ .wrCtrl v) (h : exec i s = .next t) : s.MovesOneLine t := by
  cases i <;> obtain rfl := Host.Outcome.next.inj h
  case wrData v => exact absurd rfl (hd v)
  case wrCtrl v => exact absurd rfl (hk v)
  case enable => exact State.takeCommand_movesOneLine fun ha => absurd ha (admission_inSession hs rfl)
  case transfer => exact State.takeCommand_movesOneLine fun ha => absurd ha (admission_inSession hs rfl)
  case disable =>
    refine State.takeCommand_movesOneLine fun _ => ?_
    have hw : State.WritesAdjacent { s with word := commandWordOf .disable, pending := expansion .disable s }
        (.wrCtrl (ctrlByte s.params .off)) :=
      State.writesAdjacent_of_idle hc fun v hv => ⟨.off, (MicroEvent.wrCtrl.inj hv).symm⟩
    exact hw.perform (fun _ => rfl) fun _ => rfl
  case cycle a => exact State.start_movesOneLine hc _ (cycleEvents_head _ _ _)
  all_goals exact State.start_movesOneLine hc _ nofun

end moves

section session
variable {s : State} (hq : s.SequencerOk) (hs : s.InSession)
include hq hs

/-- In a session the control register holds a named state (R63). -/
theorem State.SequencerOk.holds_named : ∃ c, s.holds c := by
  unfold State.SequencerOk at hq
  split at hq
  · obtain ⟨-, hsession, -, -⟩ := hq
    obtain ⟨c, hc, -⟩ := hsession hs.1 hs.2
    exact ⟨c, hc⟩
  · obtain ⟨-, -, hc, -⟩ := hq
    exact ⟨_, hc⟩

theorem State.SequencerOk.pending_writesAdjacent {e : MicroEvent} {rest : List MicroEvent} (he : s.pending = e :: rest) :
    s.WritesAdjacent e := by
  unfold State.SequencerOk at hq
  split at hq
  · obtain ⟨-, hsession, -, -⟩ := hq
    obtain ⟨c, hc, hok⟩ := hsession hs.1 hs.2
    rw [he] at hok
    exact writesAdjacent_of_pendingOk hc hok
  · obtain ⟨hnil, -⟩ := hq
    cases hnil.symm.trans he

end session

/-- Settles O47: each micro-event a step of a session can perform leads from the named state on the lines to one that differs in one
line, or writes no control byte. -/
theorem oneLineChangesAtATime : Obligations.OneLineChangesAtATime := by
  intro s t hinv hr hs h hf ha ho hop
  have hq := hinv.sequencer hr.1 hr.2.1
  have hnamed := hq.holds_named hs
  suffices hmoves : s.MovesOneLine t from hmoves hf ha ho
  apply step_elim (P := s.MovesOneLine) h
  case boundary => exact fun u hu => by simpa [State.MovesOneLine, State.holds] using hu
  case abort => exact fun _ _ hab => nomatch hab
  case pending => exact fun e rest he => (hq.pending_writesAdjacent hs he).perform (fun _ => rfl) fun _ => rfl
  case row =>
    exact fun u c hu => ((hq.transferOk hu).writesAdjacent c).perform (u.finish_cr c) fun x => (u.finish_dev c x).2
  case command =>
    intro w i rest u hb _ hi hu
    obtain ⟨hd, hk⟩ := decodeCommand_command hi
    exact exec_movesOneLine (s := { s with hostMoves := rest }) hs (hq.between_holds_idle hs hb) hd hk hu
  case opens => exact fun rest hb hm => absurd ⟨hb, by rw [hm]; rfl⟩ hop
  case closes => exact fun rest _ _ hclosed => nomatch hclosed
  all_goals intros; exact State.movesOneLine_of_cr_eq hnamed rfl rfl

end Sys2Proof.Machine
end

section
/-! SUPPORT. The port primitives: what WR_DATA and WR_CTRL change and what they leave, whether they fail or not (R80, R81, R146). -/

namespace Sys2Proof.Machine

/-! ### A control write of the lines already set (R53) -/

/-- A latch sees no edge where the lines stay (R44, R53). -/
theorem latchReaction_self (x : Line) (n : Lines) (dr : Option Byte) : latchReaction x (some n) n dr = .keep := by
  cases h : x.level n <;> simp [latchReaction, Line.falling, Line.rising, h]

/-- The target sees no strobe edge where the lines stay (R47, R53). -/
theorem deviceReaction_self (n : Lines) (s : State) : deviceReaction (some n) n s = .quiet :=
  deviceReaction_noEdge fun h => Bool.false_ne_true (h.2.symm.trans h.1)

/-- Nothing reacts where the lines stay (R53). -/
theorem State.react_self (n : Lines) (s : State) : s.react (some n) n = s := by
  simp [State.react, State.lowReact, State.highReact, latchReaction_self, deviceReaction_self, State.deviceReact,
    LatchReaction.latch, LatchReaction.events]

/-- Storing the byte `CR` holds only emits its event (R81). -/
theorem State.storeCtrl_same {s : State} {v : Byte} (h : s.cr = some v) :
    s.storeCtrl v = { s with trace := s.trace ++ [.wc v] } := by
  rw [State.storeCtrl, ← h]

/-- A control write of the byte `CR` holds only emits its event (R53). -/
theorem State.writeCtrl_same {s : State} {v : Byte} (h : s.cr = some v) :
    s.writeCtrl v = { s with trace := s.trace ++ [.wc v] } := by
  rw [← State.storeCtrl_same h]
  cases hn : physInv s.params v with
  | some n =>
    have hl : s.lines = some n := by rw [State.lines, h]; exact hn
    rw [writeCtrl_eq_react hn, hl, State.react_self]
  | none => simp only [State.writeCtrl, hn, h, if_true]

/-- Settles O16: the lines stay, so nothing reacts. -/
theorem sameControlByteNoReaction : Obligations.SameControlByteNoReaction :=
  fun v _ hw hc => (exec_wrCtrl_ok hw v).trans (congrArg Host.Outcome.next (State.writeCtrl_same hc))

/-! ### What a control write changes -/

/-- Every control write is the store and then the reactions to some change of the lines, with some counter of free values; where
nothing reacts the lines stay (R81). -/
theorem State.writeCtrl_reacts (s : State) (v : Byte) :
    ∃ o n d, s.writeCtrl v = State.react o n { s.storeCtrl v with draws := d } := by
  unfold State.writeCtrl
  split
  · exact ⟨_, _, s.draws, rfl⟩
  · split
    · exact ⟨some 0, 0, s.draws, (State.react_self 0 (s.storeCtrl v)).symm⟩
    · exact ⟨_, _, _, rfl⟩

/-- The reactions change only the latches, the target, the trace and the counter of free values (R44, R45, R47, R48). -/
theorem State.react_frame (o : Option Lines) (n : Lines) (s : State) :
    s.react o n = { s with
      latLo := (s.react o n).latLo, latHi := (s.react o n).latHi, dev := (s.react o n).dev
      draws := (s.react o n).draws, trace := (s.react o n).trace } := by
  unfold State.react
  cases deviceReaction o n s <;> rfl

/-- A control write changes only `CR`, the latches, the target, the trace and the counter of free values (R81). -/
theorem State.writeCtrl_frame (s : State) (v : Byte) :
    s.writeCtrl v = { s with
      cr := (s.writeCtrl v).cr, latLo := (s.writeCtrl v).latLo, latHi := (s.writeCtrl v).latHi, dev := (s.writeCtrl v).dev
      draws := (s.writeCtrl v).draws, trace := (s.writeCtrl v).trace } := by
  rw [State.writeCtrl_cr]
  obtain ⟨o, n, d, h⟩ := s.writeCtrl_reacts v
  rw [h]
  exact State.react_frame o n { s.storeCtrl v with draws := d }

/-- The device's reaction shows as one device write at most (R47, R48). -/
theorem DeviceReaction.events_isDevw (draw : Nat) (r : DeviceReaction) :
    (r.events draw).length ≤ 1 ∧ ∀ e ∈ r.events draw, e.isDevw = true := by
  cases r with
  | spurious => simp only [DeviceReaction.events]; split <;> simp [Event.isDevw]
  | _ => simp [DeviceReaction.events, Event.isDevw]

/-- A latch's reaction shows as one capture at most (R44, R45). -/
theorem LatchReaction.events_capture {p : Event → Bool} {cap : Option Byte → Event} (hp : ∀ x, p (cap x) = true)
    (r : LatchReaction) : (r.events cap).length ≤ 1 ∧ ∀ e ∈ r.events cap, p e = true := by
  cases r <;> simp [LatchReaction.events, hp]

/-- The reactions' events in the order of R81: the device's, the low latch's, the high latch's. -/
theorem State.react_trace (o : Option Lines) (n : Lines) (s : State) :
    (s.react o n).trace = s.trace ++ (deviceReaction o n s).events s.draws ++
      (latchReaction .addrLowInv o n s.dr).events .capLo ++ (latchReaction .addrHighInv o n s.dr).events .capHi := by
  simp [State.react, State.deviceReact_trace]

/-- Settles O15: the write is the store and the reactions, each with one event at most. -/
theorem wrCtrlEffect : Obligations.WrCtrlEffect := by
  intro v s hw
  obtain ⟨o, n, d, hreact⟩ := s.writeCtrl_reacts v
  have htrace := congrArg State.trace hreact
  rw [State.react_trace] at htrace
  obtain ⟨hdlen, hdev⟩ := DeviceReaction.events_isDevw d (deviceReaction o n { s.storeCtrl v with draws := d })
  obtain ⟨hllen, hlow⟩ := LatchReaction.events_capture (p := Event.isCapLo) (cap := .capLo) (fun _ => rfl)
    (latchReaction .addrLowInv o n s.dr)
  obtain ⟨hhlen, hhigh⟩ := LatchReaction.events_capture (p := Event.isCapHi) (cap := .capHi) (fun _ => rfl)
    (latchReaction .addrHighInv o n s.dr)
  exact ⟨_, _, _, _, exec_wrCtrl_ok hw v, s.writeCtrl_cr v, htrace, hdlen, hllen, hhlen, hdev, hlow, hhigh, s.writeCtrl_frame v⟩

/-- Settles O14: the write takes its effect, or it fails. -/
theorem wrDataEffect : Obligations.WrDataEffect :=
  fun v _ => ⟨fun hw => exec_wrData_ok hw v,
    fun hw => ⟨_, congrArg Host.Outcome.next (State.perform_fails hw rfl id), rfl⟩⟩

/-! ### The cell a control write stores to -/

/-- The reactions change no cell but the one the device stores to (R50). -/
theorem State.react_other {s : State} {o : Option Lines} {n : Lines} {cell : Nat}
    (h : storedCell (deviceReaction o n s) s ≠ some cell) : (s.react o n).devKnown cell = s.devKnown cell :=
  State.deviceReact_other s _ h

/-- A control write of a byte outside the image of `PHYS_MAP` that `CR` does not hold (R81, log entry 8). -/
theorem State.writeCtrl_outside {s : State} {v : Byte} (hn : physInv s.params v = none) (hcr : s.cr ≠ some v) :
    s.writeCtrl v = State.react s.lines (Config.drawLines s.draws) { s.storeCtrl v with draws := s.draws + 1 } := by
  rw [State.writeCtrl, hn]
  exact if_neg hcr

section storedCell
variable {s : State} {v : Byte} (hf : s.writeFails = false)
include hf

theorem ctrlStoredCell_named {n : Lines} (hn : physInv s.params v = some n) :
    ctrlStoredCell v s = storedCell (deviceReaction s.lines n s) s := by
  rw [ctrlStoredCell, hf, hn]
  rfl

theorem ctrlStoredCell_outside (hn : physInv s.params v = none) (hcr : s.cr ≠ some v) : ctrlStoredCell v s =
    storedCell (deviceReaction s.lines (Config.drawLines s.draws) s) { s with draws := s.draws + 1 } := by
  rw [ctrlStoredCell, hf, hn]
  exact if_neg hcr

end storedCell

section stored
variable {s : State} {v : Byte} {cell : Nat} (hc : ctrlStoredCell v s ≠ some cell)
include hc

/-- A completed control write changes no cell but the one it stores to (R50). -/
theorem State.writeCtrl_other (hf : s.writeFails = false) : (s.writeCtrl v).devKnown cell = s.devKnown cell := by
  cases hn : physInv s.params v with
  | some n =>
    rw [ctrlStoredCell_named hf hn] at hc
    rw [writeCtrl_eq_react hn]
    exact State.react_other (s := s.storeCtrl v) hc
  | none =>
    by_cases hcr : s.cr = some v
    · rw [State.writeCtrl_same hcr]
      rfl
    · rw [ctrlStoredCell_outside hf hn hcr] at hc
      rw [State.writeCtrl_outside hn hcr]
      exact State.react_other (s := { s.storeCtrl v with draws := s.draws + 1 }) hc

/-- A failed control write changes no cell but the one of its unknown write (R48, R146). -/
theorem State.failWrite_other (hf : s.writeFails = true) : (s.failWrite (.wrCtrl v)).devKnown cell = s.devKnown cell := by
  rw [ctrlStoredCell, hf] at hc
  exact State.deviceReact_other { s with cr := none, latLo := .unknown, latHi := .unknown } .spurious hc

/-- Whether it fails or not, a control write changes no cell but the one it stores to (R50, R146). -/
theorem State.perform_wrCtrl_other {done : State → State} (hd : ∀ x, (done x).dev = x.dev) :
    (s.perform (.wrCtrl v) done).devKnown cell = s.devKnown cell := by
  cases hf : s.writeFails with
  | false =>
    rw [State.perform_ok hf, State.devKnown, hd]
    exact State.writeCtrl_other hc hf
  | true =>
    rw [State.perform_fails hf rfl]
    exact State.failWrite_other hc hf

end stored

/-- Settles O55: the frame of each micro-op, completed or failed. -/
theorem microOpFrame : Obligations.MicroOpFrame := by
  refine fun v s t => ⟨fun h => ?_, fun h => ?_⟩ <;> obtain rfl := Host.Outcome.next.inj h
  · rcases State.perform_cases s (.wrData v) id with hp | ⟨-, -, hp⟩ <;> rw [hp] <;> exact ⟨rfl, fun _ => rfl⟩
  · refine ⟨?_, fun cell hc => State.perform_wrCtrl_other hc fun _ => rfl⟩
    rcases State.perform_cases s (.wrCtrl v) id with hp | ⟨-, -, hp⟩ <;> rw [hp]
    · exact (s.writeCtrl_frame v).trans (by simp [State.apply])
    · rfl

end Sys2Proof.Machine
end

section
/-! SUPPORT. The first step of a command: what it does in a session (R83, R84), and what it leaves unchanged whether it is admitted or
not, and whether its port write fails or not (R140, R146, R147). -/

namespace Sys2Proof.Machine

/-! ### The words of the commands with an operand (R65, R66) -/

theorem commandWordOf_latchLow (b : Byte) : commandWordOf (.latchLow b) = some (0x300000 + b.setWidth 24) :=
  congrArg some (commandWord_byte 3 b)

theorem commandWordOf_latchHigh (b : Byte) : commandWordOf (.latchHigh b) = some (0x400000 + b.setWidth 24) :=
  congrArg some (commandWord_byte 4 b)

theorem commandWordOf_strobe (b : Byte) : commandWordOf (.strobe b) = some (0x500000 + b.setWidth 24) :=
  congrArg some (commandWord_byte 5 b)

theorem commandWordOf_cycle (a : Addr) : commandWordOf (.cycle a) = some (0x600000 + a.setWidth 24) :=
  congrArg some (commandWord_addr 6 a)

/-! ### What the first step does -/

/-- A data command that is admitted and begins with a data write that does not fail (R80, R83). -/
theorem State.start_wrData {s : State} {i : Instr} {b : Byte} {rest : List MicroEvent} (h : admission i s = none)
    (hf : s.writeFails = false) : s.start i (.wrData b :: rest) =
      { s with word := commandWordOf i, dr := some b, trace := s.trace ++ [.wd b], pending := rest } :=
  State.start_ok h hf

/-- A command that is admitted and begins with a progress event, which cannot fail (R83, R85, R125). -/
theorem State.start_progress {s : State} {i : Instr} {k : Nat} {rest : List MicroEvent} (h : admission i s = none) :
    s.start i (.progress k :: rest) =
      { s with word := commandWordOf i, trace := s.trace ++ [.progress k], pending := rest } := by
  rw [State.start, State.takeCommand_ok h]
  rfl

/-- Settles O25: the command is admitted and its data write performed. -/
theorem latchAndStrobeFirstStep : Obligations.LatchAndStrobeFirstStep := by
  intro b s hs hf
  obtain ⟨ho, hph⟩ := hs
  rw [← commandWordOf_latchLow, ← commandWordOf_latchHigh, ← commandWordOf_strobe]
  refine ⟨?_, ?_, fun h l hh hl => ?_⟩
  · exact congrArg Host.Outcome.next (State.start_wrData (admission_session ho hph rfl) hf)
  · exact congrArg Host.Outcome.next (State.start_wrData (admission_session ho hph rfl) hf)
  · have ha : admission (.strobe b) s = none := by
      rw [admission_session ho hph rfl, latchFault, hh, hl]
      rfl
    exact congrArg Host.Outcome.next (State.start_wrData ha hf)

/-- In a session CYCLE is admitted where it latches the high byte itself or finds it held (R120). -/
theorem admission_cycle {s : State} {a : Addr} (hs : s.InSession) (h : relatchDue a = true ∨ s.latHi.isHeld = true) :
    admission (.cycle a) s = none := by
  rw [admission_session hs.1 hs.2 rfl, latchFault]
  exact if_pos (Bool.or_eq_true_iff.2 h)

/-- The high byte is latched at every multiple of 256 (R103). -/
theorem relatchDue_of_mod {a : Addr} (h : a.toNat % 256 = 0) : relatchDue a = true := (relatchDue_iff a).2 h

section cycleEvents
variable {a : Addr} (p : Params) (d : Byte)

/-- CYCLE's micro-events where a progress event is due: every 1024th address (R120, R125). -/
theorem cycleEvents_progress (h : a.toNat % 1024 = 0) : cycleEvents p a d =
    .progress (a.toNat / 1024) :: (latchHighEvents p (highByte a) ++ latchLowEvents p (lowByte a) ++ strobeEvents p d) := by
  have hp : progressDue a.toNat = true := beq_iff_eq.2 h
  have hr : relatchDue a = true := relatchDue_of_mod (by omega)
  rw [cycleEvents, if_pos hp, if_pos hr]
  rfl

/-- CYCLE's micro-events where only the high byte is latched anew: at the other multiples of 256 (R103, R120). -/
theorem cycleEvents_relatch (hp : a.toNat % 1024 ≠ 0) (hr : a.toNat % 256 = 0) :
    cycleEvents p a d = latchHighEvents p (highByte a) ++ latchLowEvents p (lowByte a) ++ strobeEvents p d := by
  have hp' : ¬ progressDue a.toNat = true := mt beq_iff_eq.1 hp
  rw [cycleEvents, if_neg hp', if_pos (relatchDue_of_mod hr)]
  rfl

/-- CYCLE's micro-events where the high latch is kept (R120). -/
theorem cycleEvents_keep (hr : a.toNat % 256 ≠ 0) :
    cycleEvents p a d = latchLowEvents p (lowByte a) ++ strobeEvents p d := by
  have hp : ¬ progressDue a.toNat = true := mt beq_iff_eq.1 (by rw [Config.progressPeriod]; omega)
  rw [cycleEvents, if_neg hp, if_neg (mt (relatchDue_iff a).1 hr)]
  rfl

end cycleEvents

/-- Settles O29: along the three forms of CYCLE's micro-events. -/
theorem cycleFirstStep : Obligations.CycleFirstStep := by
  intro a s hs
  rw [← commandWordOf_cycle]
  refine ⟨fun hp => ?_, fun hf hp hr => ?_, fun h hf hr hh => ?_⟩ <;> refine congrArg Host.Outcome.next ?_
  · have hr : relatchDue a = true := relatchDue_of_mod (by omega)
    rw [expansion, cycleEvents_progress _ _ hp]
    exact State.start_progress (admission_cycle hs (.inl hr))
  · rw [expansion, cycleEvents_relatch _ _ hp hr]
    exact State.start_wrData (admission_cycle hs (.inl (relatchDue_of_mod hr))) hf
  · rw [expansion, cycleEvents_keep _ _ hr]
    exact State.start_wrData (admission_cycle hs (.inr (by rw [hh]; rfl))) hf

/-! ### What the first step of a data command leaves unchanged -/

/-- `t` differs from `s` only in what the first step of a data command may change. -/
abbrev State.DataFrame (s t : State) : Prop :=
  t = { s with dr := t.dr, pending := t.pending, trace := t.trace, word := t.word, fault := t.fault }

/-- A micro-event other than a control write changes only `DR`, the trace and the fault record (R80, R125, R146). -/
theorem State.perform_dataFrame (s : State) {e : MicroEvent} (he : ∀ v, e ≠ .wrCtrl v) (rest : List MicroEvent) :
    s.DataFrame (s.perform e fun t => { t with pending := rest }) := by
  rcases State.perform_cases s e fun t => { t with pending := rest } with hp | ⟨-, -, hp⟩ <;> rw [hp] <;> cases e
  case inl.wrCtrl v | inr.wrCtrl v => exact absurd rfl (he v)
  all_goals rfl

/-- A command whose expansion does not begin with a control write, whatever its admission (R72, R83, R147). -/
theorem State.start_dataFrame (s : State) (i : Instr) {events : List MicroEvent} (h : ∀ v, events.head? ≠ some (.wrCtrl v)) :
    s.DataFrame (s.start i events) := by
  rw [State.start]
  rcases State.takeCommand_cases i (fun t => State.runPending { t with pending := events }) s with ⟨-, hp⟩ | ⟨f, -, hp⟩ <;> rw [hp]
  · cases events with
    | nil => rfl
    | cons e rest =>
      exact (State.perform_dataFrame { s with word := commandWordOf i, pending := e :: rest }
        (fun v hv => h v (congrArg some hv)) rest :)
  · rfl

/-- Settles O53: none of the four commands begins with a control write, and `DEV` is not among what may change. -/
theorem dataCommandFrame : Obligations.DataCommandFrame := by
  intro i b a s t hi h
  have hframe : s.DataFrame t := by
    simp only [List.mem_cons, List.not_mem_nil, or_false] at hi
    rcases hi with rfl | rfl | rfl | rfl <;> obtain rfl := Host.Outcome.next.inj h
    · exact State.start_dataFrame s _ nofun
    · exact State.start_dataFrame s _ nofun
    · exact State.start_dataFrame s _ nofun
    · exact State.start_dataFrame s _ (cycleEvents_head _ _ _)
  have hdev : t.dev = s.dev := by rw [hframe]
  exact ⟨hframe, fun cell => congrArg (Memory.read · cell) hdev⟩

/-! ### What the first step of a session command leaves unchanged -/

/-- What the first step of a session command with the control byte `v` keeps from `s` to `t`. -/
structure State.SessionFrame (v : Byte) (s t : State) : Prop where
  /-- Only the control side of the port, the sequencer, the phase and the records change. -/
  fields : t = { s with
    cr := t.cr, latLo := t.latLo, latHi := t.latHi, dev := t.dev, draws := t.draws, trace := t.trace, phase := t.phase
    pending := t.pending, upc := t.upc, cursor := t.cursor, word := t.word, fault := t.fault }
  /-- A recorded fault leaves the phase and the cursor. -/
  fault : t.fault ≠ s.fault → t.phase = s.phase ∧ t.cursor = s.cursor
  /-- Every cell but the one `v` stores to is unchanged. -/
  cells : ∀ cell, ctrlStoredCell v s ≠ some cell → t.devKnown cell = s.devKnown cell

section session
variable {s : State} {v : Byte} {done : State → State}

/-- The control write of a session command, with its bookkeeping, from the state in which its sequencer is set up (R83, R146). -/
theorem State.sessionFrame_perform
    (hd : ∀ x, done x = { x with
      phase := (done x).phase, pending := (done x).pending, upc := (done x).upc, cursor := (done x).cursor })
    (w : Option CommandWord) (p : List MicroEvent) (u : Option Upc) :
    State.SessionFrame v s (State.perform (.wrCtrl v) done { s with word := w, pending := p, upc := u }) := by
  have hcells : ∀ cell, ctrlStoredCell v s ≠ some cell →
      State.devKnown (State.perform (.wrCtrl v) done { s with word := w, pending := p, upc := u }) cell = s.devKnown cell :=
    fun cell hc => State.perform_wrCtrl_other (s := { s with word := w, pending := p, upc := u }) hc
      fun x => by rw [hd]
  rcases State.perform_cases { s with word := w, pending := p, upc := u } (.wrCtrl v) done with hp | ⟨-, -, hp⟩ <;>
    rw [hp] at hcells ⊢
  · refine ⟨?_, fun hf => absurd ?_ hf, hcells⟩
    · rw [hd, State.apply, State.writeCtrl_frame]
    · rw [hd]
      simp [State.apply]
  · exact ⟨rfl, fun _ => ⟨rfl, rfl⟩, hcells⟩

/-- A refused session command changes only the word and the fault record (R140, R147). -/
theorem State.sessionFrame_takeCommand {i : Instr} {run : State → State}
    (h : State.SessionFrame v s (run { s with word := commandWordOf i })) : State.SessionFrame v s (s.takeCommand i run) := by
  rcases State.takeCommand_cases i run s with ⟨-, hp⟩ | ⟨f, -, hp⟩ <;> rw [hp]
  · exact h
  · exact ⟨rfl, fun _ => ⟨rfl, rfl⟩, fun _ _ => rfl⟩

end session

/-- Settles O54: each of the three commands is one control write with its bookkeeping. -/
theorem sessionCommandFrame : Obligations.SessionCommandFrame := by
  intro i c s t hi h
  have hframe : State.SessionFrame (ctrlByte s.params c) s t := by
    rcases hi with ⟨rfl, rfl⟩ | ⟨rfl, rfl⟩ | ⟨rfl, rfl⟩ <;> obtain rfl := Host.Outcome.next.inj h <;>
      exact State.sessionFrame_takeCommand (State.sessionFrame_perform (fun _ => rfl) _ _ _)
  exact ⟨hframe.fields, hframe.fault, hframe.cells⟩

end Sys2Proof.Machine
end

section
/-! SUPPORT. The step and the instruction it runs (R83): the next word of the host, or the micro-op at the head of `pending`. -/

namespace Sys2Proof.Machine

/-- A running machine takes its step unless the host aborts or the port does not accept the step's write (R83, R145, R148). -/
theorem step_eq_advance {s : State} (hr : s.Running) (ha : s.choices.head? ≠ some .abort)
    (hp : ¬ (s.portRefuses = true ∧ s.nextWritesPort = true)) : step s = onNext State.consumeChoice (advance s) := by
  rw [step, stepOnce, stopped_of_running hr]
  exact (if_neg ha).trans (if_neg (mt Bool.and_eq_true_iff.1 hp))

/-- A command word that decodes runs its instruction (R83). -/
theorem hostMove_command {w : CommandWord} {i : Instr} (h : decodeCommand w = .instr i) (s : State) :
    hostMove (.command w) s = exec i s := by
  simp only [hostMove, h]

/-- The bookkeeping of a port write is done where it does not fail (R83, R146). -/
theorem State.perform_portWrite {e : MicroEvent} (he : e.isPortWrite = true) (done : State → State) (s : State) :
    s.perform e done = if s.writeFails then s.perform e id else done (s.perform e id) := by
  cases hf : s.writeFails with
  | false => simp [State.perform_ok hf]
  | true => simp [State.perform_fails hf he]

/-- Settles O5: between commands the step is the host's move, otherwise it performs the head of `pending`. -/
theorem stepRunsDecodedInstruction : Obligations.StepRunsDecodedInstruction := by
  refine ⟨fun s w rest i hr hb hm hi ha hp => ?_, fun s i e rest v hr hpend hie ha hp => ?_⟩
  · rw [step_eq_advance hr ha hp, advance_hostMove hb hm, hostMove_command hi]
  · obtain ⟨hexec, he⟩ : exec i s = .next (s.perform e id) ∧ e.isPortWrite = true := by
      rcases hie with ⟨rfl, rfl⟩ | ⟨rfl, rfl⟩ <;> exact ⟨rfl, rfl⟩
    have hadv : advance s = .next (s.perform e fun t => { t with pending := rest }) := by
      simp only [advance, hpend, State.runPending_cons hpend]
    rw [step_eq_advance hr ha (by simp [hp]), hadv, hexec, State.perform_portWrite he]
    rfl

/-- A 24-bit table word is a command word (R69). -/
theorem decodeCommand_of_tableWord {w : Nat} {i : Instr} (h : decodeTableWord 24 w = some i) :
    decodeCommand (BitVec.ofNat 24 w) = .instr i := by
  unfold decodeTableWord at h
  rw [if_neg (by omega)] at h
  split at h
  · split at h
    · rename_i j hj
      rw [hj, Option.some.inj h]
    · cases h
  · cases h

/-- Settles O6: the placed word is the host's next move, with nothing in execution. -/
theorem placedWordRuns : Obligations.PlacedWordRuns := by
  intro s w i hr hw
  obtain ⟨t, ht⟩ := exec_next i { s with pending := [], upc := none, cursor := none, choices := [] }
  have hmove := (hostMove_command (decodeCommand_of_tableWord hw) _).trans ht
  exact (step_hostMove (s := s.withFetchWord 24 w) hr ⟨rfl, rfl⟩ rfl rfl hmove).trans ht.symm

/-- Settles O8: nothing is in execution and the host has no move. -/
theorem noCommandNoStep : Obligations.NoCommandNoStep := by
  intro s hr hb hm ha
  have hn : s.nextWritesPort = false := nextWritesPort_of_noCommand hb fun w => by simp [hm]
  have hadv : advance s = .refused .noCommand := by
    obtain ⟨hp, hu⟩ := hb
    simp only [advance, hp, hu, hm]
  rw [step_eq_advance hr ha (by simp [hn]), hadv]
  rfl

end Sys2Proof.Machine
end

section
/-! SUPPORT. The session bracket: PROGRAM stays asserted inside a session (R93), and what ENABLE and DISABLE do, admitted or refused
(R90, R91). -/

namespace Sys2Proof.Machine

/-! ### PROGRAM in a session (R93) -/

/-- `C_OFF` is the only named state without PROGRAM (R62). -/
theorem Control.program_of_ne_off {c : Control} (h : c ≠ .off) : c.lines.getLsbD 0 = true := by
  cases c with
  | off => exact absurd rfl h
  | idle | lowOpen | highOpen | strobe => rfl

/-- What is left of a command in execution never starts from `C_OFF` (R63). -/
theorem ne_off_of_pendingOk {p : Params} {c : Control} {hi lo dr : Bool} {events : List MicroEvent}
    (h : pendingOk p c hi lo dr events) : c ≠ .off := by
  rintro rfl
  match events, h with
  | [], h | .wrData _ :: _, ⟨h, _⟩ | .progress _ :: _, ⟨h, _⟩ => cases h

/-- In a session the micro-program stands at no state before which the lines are `C_OFF` (R124). -/
theorem State.TransferOk.control_ne_off {s : State} {u : Upc} (h : s.TransferOk u) (hs : s.InSession) : u.control ≠ .off := by
  obtain ⟨-, -, -, hu⟩ := h
  cases u with
  | s12 => cases hs.2.symm.trans hu.1
  | _ => exact nofun

/-- In a session the control register holds a named state other than `C_OFF` (R93). -/
theorem State.SequencerOk.holds_ne_off {s : State} (hq : s.SequencerOk) (hs : s.InSession) : ∃ c ≠ Control.off, s.holds c := by
  cases hu : s.upc with
  | none =>
    simp only [State.SequencerOk, hu] at hq
    obtain ⟨-, hsession, -, -⟩ := hq
    obtain ⟨c, hc, hok⟩ := hsession hs.1 hs.2
    exact ⟨c, ne_off_of_pendingOk hok, hc⟩
  | some u =>
    have ht := hq.transferOk hu
    have hoff := ht.control_ne_off hs
    obtain ⟨-, -, hc, -⟩ := ht
    exact ⟨u.control, hoff, hc⟩

/-- Settles O46: every step keeps the invariant, and under it the lines of a session stand in a named state other than `C_OFF`. -/
theorem sessionKeepsProgramAsserted : Obligations.SessionKeepsProgramAsserted := by
  intro s hinv hr hs
  refine ⟨fun hb => ?_, fun t h hst hf ha => ?_⟩
  · exact lines_of_holds hinv.params ((hinv.sequencer hr.1 hr.2.1).between_holds_idle hs hb)
  · have hinv' := invariantKeptByStep s t hinv h
    obtain ⟨c, hoff, hc⟩ := (hinv'.sequencer hf ha).holds_ne_off hst
    exact ⟨c.lines, lines_of_holds hinv'.params hc, Control.program_of_ne_off hoff⟩

/-! ### A command that is refused (R140, R147) -/

section refused
variable {s : State} {i : Instr}

/-- A command that needs a session is refused outside one (R91, R100, R110, R120). -/
theorem admission_notEnabled (ho : s.portOpen = true) (hp : s.phase = .idle) (hi : wantedPhase i = .enabled) :
    admission i s = some .notEnabled := by
  simp [admission, ho, phaseFault, hi, hp]

/-- A command that opens a session is refused inside one (R90, R122). -/
theorem admission_alreadyEnabled (ho : s.portOpen = true) (hp : s.phase = .enabled) (hi : wantedPhase i = .idle) :
    admission i s = some .alreadyEnabled := by
  simp [admission, ho, phaseFault, hi, hp]

/-- A refused command records its fault and its word and does nothing else (R140). -/
theorem exec_faulted {f : Fault} (hd : ∀ v, i ≠ .wrData v) (hk : ∀ v, i ≠ .wrCtrl v) (ha : admission i s = some f) :
    exec i s = .next (s.faulted i f) := by
  cases i with
  | wrData v => exact absurd rfl (hd v)
  | wrCtrl v => exact absurd rfl (hk v)
  | _ => exact congrArg Host.Outcome.next (State.takeCommand_raises ha _)

end refused

/-! ### The one control write of ENABLE and DISABLE (R90, R91) -/

section sequencer
variable (s : State) (w : Option CommandWord) (p : List MicroEvent) (u : Option Upc)

/-- The environment's reactions do not depend on the sequencer's registers (R44, R45, R47, R48). -/
theorem State.react_sequencer (o : Option Lines) (n : Lines) :
    State.react o n { s with word := w, pending := p, upc := u } = { s.react o n with word := w, pending := p, upc := u } := by
  have hr : deviceReaction o n { s with word := w, pending := p, upc := u } = deviceReaction o n s := rfl
  rw [State.react, hr, State.react]
  cases deviceReaction o n s <;> rfl

/-- A control write does not depend on the sequencer's registers (R81). -/
theorem State.writeCtrl_sequencer (v : Byte) :
    State.writeCtrl v { s with word := w, pending := p, upc := u } = { s.writeCtrl v with word := w, pending := p, upc := u } := by
  unfold State.writeCtrl
  dsimp only
  split
  · exact State.react_sequencer (s.storeCtrl v) w p u s.lines _
  · split
    · rfl
    · exact State.react_sequencer { s.storeCtrl v with draws := s.draws + 1 } w p u s.lines _

end sequencer

/-- A command of the session bracket that is admitted, with the control byte `v`, and whose write does not fail: the write, and the
phase in the same step (R83, R90, R91). -/
theorem State.takeCommand_bracket {s : State} {i : Instr} (ha : admission i s = none) (hf : s.writeFails = false)
    (events : List MicroEvent) (v : Byte) (ph : Phase) :
    s.takeCommand i (fun t => State.perform (.wrCtrl v) (fun x => { x with pending := [], phase := ph })
      { t with pending := events }) =
    { s.writeCtrl v with word := commandWordOf i, pending := [], phase := ph } := by
  have hf' : State.writeFails { s with word := commandWordOf i, pending := events } = false := hf
  have hw := s.writeCtrl_sequencer (commandWordOf i) events s.upc v
  rw [State.takeCommand_ok ha, State.perform_ok hf', State.apply, hw, ← s.writeCtrl_upc v]

/-- Settles O23: ENABLE is the one control write, which R63 gives from `⊥` and from `C_OFF`. -/
theorem enableCompletes : Obligations.EnableCompletes := by
  refine ⟨by decide, fun s ho => exec_closed ho nofun nofun,
    fun s ho hp => exec_faulted nofun nofun (admission_alreadyEnabled ho hp rfl), fun s ho hp hf => ?_⟩
  have hwrite : exec .enable s = .next { s.writeCtrl (ctrlByte s.params .idle) with
      word := some 0x100000, pending := [], phase := .enabled } :=
    congrArg Host.Outcome.next (State.takeCommand_bracket (admission_outside ho hp (.inl rfl)) hf _ _ _)
  refine ⟨hwrite, fun hw hc => ?_, fun hw hc => ?_⟩ <;> rw [hwrite]
  · rw [writeCtrl_unknown_idle hw hc]
  · rw [writeCtrl_off_idle hw hc]

/-- Settles O24: DISABLE is the one control write, to which nothing reacts from `C_IDLE`. -/
theorem disableCompletes : Obligations.DisableCompletes := by
  refine ⟨by decide, fun s ho => exec_closed ho nofun nofun,
    fun s ho hp => exec_faulted nofun nofun (admission_notEnabled ho hp rfl), fun s hs hf => ?_⟩
  have hwrite : exec .disable s = .next { s.writeCtrl (ctrlByte s.params .off) with
      word := some 0x200000, pending := [], phase := .idle } :=
    congrArg Host.Outcome.next (State.takeCommand_bracket (admission_session hs.1 hs.2 rfl) hf _ _ _)
  exact ⟨hwrite, fun hw hc => by rw [hwrite, writeCtrl_idle_off hw hc]⟩

end Sys2Proof.Machine
end

section
/-! SUPPORT. Address latching: a command's steps after its admission, and what LATCH_LOW and LATCH_HIGH leave (R83, R100, R101). -/

namespace Sys2Proof.Machine

/-! ### The steps of a command in execution -/

/-- The word of a command decodes to it (R65, R66). -/
theorem decodeCommand_commandWordOf {i : Instr} {w : CommandWord} (h : commandWordOf i = some w) : decodeCommand w = .instr i := by
  have hround : decode (encode i) = .instr i := decodeOfEncode i
  rwa [encode_of_commandWordOf h] at hround

/-- A state ready for the next command takes the one whose word the host issues (R83 case 3). -/
theorem step_command {s t : State} {i : Instr} {w : CommandWord} {rest : List HostMove} (hs : s.Ready)
    (hw : commandWordOf i = some w) (hm : s.hostMoves = .command w :: rest) (ht : exec i { s with hostMoves := rest } = .next t) :
    step s = .next t := by
  obtain ⟨hr, hb, -, hch, -⟩ := hs
  exact step_hostMove hr hb hch hm ((hostMove_command (decodeCommand_commandWordOf hw) _).trans ht)

/-- A control write does not depend on `pending` (R81). -/
theorem State.writeCtrl_withPending (s : State) (p : List MicroEvent) (v : Byte) :
    State.writeCtrl v { s with pending := p } = { s.writeCtrl v with pending := p } := by
  refine (s.writeCtrl_sequencer s.word p s.upc v).trans ?_
  rw [← s.writeCtrl_word v, ← s.writeCtrl_upc v]

/-- No port write fails where every coming boundary proceeds (R146). -/
theorem writeFails_of_nil {s : State} (h : s.choices = []) : s.writeFails = false := by
  simp [State.writeFails, h]

section pulse
variable {s : State} {rest : List MicroEvent} (hr : s.Running) (hch : s.choices = [])
include hr hch

/-- The step of the micro-event at the head of `pending` (R83 case 2). -/
theorem step_pending {e : MicroEvent} (hpend : s.pending = e :: rest) : step s = .next { s.apply e with pending := rest } := by
  have hadv : advance s = .next { s.apply e with pending := rest } := by
    simp only [advance, hpend, State.runPending_cons hpend, State.perform_ok (writeFails_of_nil hch)]
  rw [step_proceeds hr hch, hadv, onNext, consumeChoice_of_nil ((advance_choices hadv).trans hch)]

/-- Two control writes at the head of `pending` take two steps (R83 case 2). -/
theorem steps_wrCtrl_wrCtrl {v v' : Byte} (hpend : s.pending = .wrCtrl v :: .wrCtrl v' :: rest) :
    steps 2 s = .next { (s.writeCtrl v).writeCtrl v' with pending := rest } := by
  have hopen : step s = .next { s.writeCtrl v with pending := .wrCtrl v' :: rest } := step_pending hr hch hpend
  have hclose := step_pending (s := { s.writeCtrl v with pending := .wrCtrl v' :: rest }) (by simpa using hr) (by simpa using hch) rfl
  rw [steps_succ hopen, steps_succ hclose, State.apply, State.writeCtrl_withPending]
  rfl

variable {b : Byte} (hp : paramsWf s.params = true) (hc : s.holds .idle) (hd : s.dr = some b)
include hp hc hd

/-- The low latch opens and closes on the byte in `DR` (R44, R100). -/
theorem steps_lowPulse
    (hpend : s.pending = .wrCtrl (ctrlByte s.params .lowOpen) :: .wrCtrl (ctrlByte s.params .idle) :: rest) :
    steps 2 s = .next { s with
      latLo := .held b, pending := rest
      trace := s.trace ++ [.wc (ctrlByte s.params .lowOpen), .wc (ctrlByte s.params .idle), .capLo (some b)] } := by
  have hopen := writeCtrl_idle_lowOpen hp hc
  have hclose := writeCtrl_lowOpen_idle (s := s.writeCtrl (ctrlByte s.params .lowOpen)) (b := b)
    (by simpa using hp) (by simp [State.holds]) (by simpa using hd)
  rw [State.writeCtrl_params] at hclose
  rw [steps_wrCtrl_wrCtrl hr hch hpend, hclose, hopen]
  simp [hc]

/-- The high latch opens and closes on the byte in `DR` (R45, R101). -/
theorem steps_highPulse
    (hpend : s.pending = .wrCtrl (ctrlByte s.params .highOpen) :: .wrCtrl (ctrlByte s.params .idle) :: rest) :
    steps 2 s = .next { s with
      latHi := .held b, pending := rest
      trace := s.trace ++ [.wc (ctrlByte s.params .highOpen), .wc (ctrlByte s.params .idle), .capHi (some b)] } := by
  have hopen := writeCtrl_idle_highOpen hp hc
  have hclose := writeCtrl_highOpen_idle (s := s.writeCtrl (ctrlByte s.params .highOpen)) (b := b)
    (by simpa using hp) (by simp [State.holds]) (by simpa using hd)
  rw [State.writeCtrl_params] at hclose
  rw [steps_wrCtrl_wrCtrl hr hch hpend, hclose, hopen]
  simp [hc]

end pulse

/-! ### The latch commands -/

/-- Settles O26: the data write of the first step, then the low latch opens and closes on its byte. -/
theorem latchLowRuns : Obligations.LatchLowRuns := by
  refine ⟨fun b s ho => exec_closed ho nofun nofun,
    fun b s ho hp => exec_faulted nofun nofun (admission_notEnabled ho hp rfl), fun b s rest hs hph hc hm => ?_⟩
  have ⟨hr, hb, ho, hch, hp⟩ := hs
  obtain ⟨hfirst, -⟩ := latchAndStrobeFirstStep b { s with hostMoves := rest } ⟨ho, hph⟩ (writeFails_of_nil hch)
  rw [steps_succ (step_command hs (commandWordOf_latchLow b) hm hfirst)]
  refine Eq.trans (steps_lowPulse ?running ?choices ?params ?idle rfl rfl) ?result
  case result =>
    rw [← hb.1, List.append_assoc]
    rfl
  exacts [hr, hch, hp, hc]

/-- Settles O27: the data write of the first step, then the high latch opens and closes on its byte. -/
theorem latchHighRuns : Obligations.LatchHighRuns := by
  refine ⟨fun b s ho => exec_closed ho nofun nofun,
    fun b s ho hp => exec_faulted nofun nofun (admission_notEnabled ho hp rfl), fun b s rest hs hph hc hm => ?_⟩
  have ⟨hr, hb, ho, hch, hp⟩ := hs
  obtain ⟨-, hfirst, -⟩ := latchAndStrobeFirstStep b { s with hostMoves := rest } ⟨ho, hph⟩ (writeFails_of_nil hch)
  rw [steps_succ (step_command hs (commandWordOf_latchHigh b) hm hfirst)]
  refine Eq.trans (steps_highPulse ?running ?choices ?params ?idle rfl rfl) ?result
  case result =>
    rw [← hb.1, List.append_assoc]
    rfl
  exacts [hr, hch, hp, hc]

end Sys2Proof.Machine
end

section
/-! SUPPORT. The data strobe: the falling edge writes the byte at the latched address, and STROBE needs both latches held (R47, R110). -/

namespace Sys2Proof.Machine

/-- The strobe rises and falls on a known byte at a known address (R47, R48, R110). -/
theorem steps_strobePulse {s : State} {rest : List MicroEvent} {h l b : Byte} (hr : s.Running) (hch : s.choices = [])
    (hp : paramsWf s.params = true) (hc : s.holds .idle) (hh : s.latHi = .held h) (hl : s.latLo = .held l) (hd : s.dr = some b)
    (hpend : s.pending = .wrCtrl (ctrlByte s.params .strobe) :: .wrCtrl (ctrlByte s.params .idle) :: rest) :
    steps 2 s = .next { s with
      dev := s.devWritten (joinAddr h l) b, pending := rest
      trace := s.trace ++ [.wc (ctrlByte s.params .strobe), .wc (ctrlByte s.params .idle), .devw (some h) (some l) (some b)] } := by
  have hrise := writeCtrl_idle_strobe hp hc
  have hfall := writeCtrl_strobe_idle (s := s.writeCtrl (ctrlByte s.params .strobe)) (hi := h) (lo := l) (b := b)
    (by simpa using hp) (by simp [State.holds]) (by rw [hrise]; exact hh) (by rw [hrise]; exact hl) (by simpa using hd)
  rw [State.writeCtrl_params] at hfall
  rw [steps_wrCtrl_wrCtrl hr hch hpend, hfall, hrise, ← hc, List.append_assoc]
  rfl

/-- Without both latches held the strobe would write at an address that is not known (R110). -/
theorem admission_strobe_unlatched {s : State} (hs : s.InSession) (b : Byte)
    (h : (∀ h, s.latHi ≠ .held h) ∨ ∀ l, s.latLo ≠ .held l) :
    admission (.strobe b) s = some (.unlatchedAddress s.latHi s.latLo) := by
  rw [admission_session hs.1 hs.2 rfl, latchFault]
  refine if_neg fun hready => ?_
  obtain ⟨hhi, hlo⟩ := Bool.and_eq_true_iff.1 hready
  obtain ⟨x, hx⟩ := Latch.eq_held_of_isHeld hhi
  obtain ⟨y, hy⟩ := Latch.eq_held_of_isHeld hlo
  exact h.elim (fun hne => hne x hx) fun hne => hne y hy

/-- Settles O28: the data write of the first step, then the strobe's pulse on its byte. -/
theorem strobeRuns : Obligations.StrobeRuns := by
  refine ⟨fun b s ho => exec_closed ho nofun nofun,
    fun b s ho hp => exec_faulted nofun nofun (admission_notEnabled ho hp rfl),
    fun b s hs hne => exec_faulted nofun nofun (admission_strobe_unlatched hs b hne), fun b h l s rest hs hph hc hh hl hm => ?_⟩
  have ⟨hr, hb, ho, hch, hp⟩ := hs
  obtain ⟨-, -, hadmitted⟩ := latchAndStrobeFirstStep b { s with hostMoves := rest } ⟨ho, hph⟩ (writeFails_of_nil hch)
  have hfirst := hadmitted h l hh hl
  rw [steps_succ (step_command hs (commandWordOf_strobe b) hm hfirst)]
  refine Eq.trans (steps_strobePulse ?running ?choices ?params ?idle hh hl rfl rfl) ?result
  case result =>
    rw [← hb.1, List.append_assoc]
    rfl
  exacts [hr, hch, hp, hc]

end Sys2Proof.Machine
end

section
/-! SUPPORT. Nothing the block does reads the target memory or the trace (R33, R112, R125): every operation takes states that agree on
all but these to states that do, so a step does too. -/

namespace Sys2Proof.Machine

/-! ### States that agree on all but the target and the trace -/

/-- `s` with another target memory and another trace. -/
def State.withObserved (m : Memory) (k : Nat) (tr : List Event) (s : State) : State :=
  { s with dev := m, devEpoch := k, trace := tr }

/-- `s` and `t` agree on all but the target memory and the trace. -/
def State.Alike (s t : State) : Prop := ∃ m k tr, t = s.withObserved m k tr

/-- The state change answers alike whatever the target memory and the trace hold. -/
def Blind (f : State → State) : Prop := ∀ s m k tr, (f s).Alike (f (s.withObserved m k tr))

theorem Blind.alike {f : State → State} (hf : Blind f) {s t : State} (h : s.Alike t) : (f s).Alike (f t) := by
  obtain ⟨m, k, tr, rfl⟩ := h
  exact hf s m k tr

theorem Blind.comp {f g : State → State} (hg : Blind g) (hf : Blind f) : Blind fun s => g (f s) :=
  fun s m k tr => hg.alike (hf s m k tr)

/-! ### The port registers and the environment's reactions -/

/-- A write effect may read the old byte of its cell, but only the cell and the trace show it (R47, R48, R50). -/
theorem State.deviceReact_blind (r : DeviceReaction) : Blind (State.deviceReact r) := by
  intro s m k tr
  cases r <;> exact ⟨_, _, _, rfl⟩

theorem State.lowReact_blind (o : Option Lines) (n : Lines) : Blind (State.lowReact o n) := fun _ _ _ _ => ⟨_, _, _, rfl⟩

theorem State.highReact_blind (o : Option Lines) (n : Lines) : Blind (State.highReact o n) := fun _ _ _ _ => ⟨_, _, _, rfl⟩

/-- Which reaction a control write causes depends on the lines, the latches and `DR` alone (R44, R45, R47, R48). -/
theorem State.react_blind (o : Option Lines) (n : Lines) : Blind (State.react o n) := fun s =>
  ((State.highReact_blind o n).comp (State.lowReact_blind o n)).comp (State.deviceReact_blind (deviceReaction o n s)) s

theorem State.writeCtrl_blind (v : Byte) : Blind (State.writeCtrl v) := by
  intro s m k tr
  have hp : (s.withObserved m k tr).params = s.params := rfl
  have hc : (s.withObserved m k tr).cr = s.cr := rfl
  unfold State.writeCtrl
  rw [hp, hc]
  split
  · exact (State.react_blind s.lines _).alike ⟨_, _, _, rfl⟩
  · split
    · exact ⟨_, _, _, rfl⟩
    · exact (State.react_blind s.lines _).alike ⟨_, _, _, rfl⟩

theorem State.apply_blind (e : MicroEvent) : Blind (State.apply e) := by
  cases e with
  | wrCtrl v => exact State.writeCtrl_blind v
  | _ => exact fun _ _ _ _ => ⟨_, _, _, rfl⟩

theorem State.failWrite_blind (e : MicroEvent) : Blind (State.failWrite e) := by
  cases e <;> exact fun _ _ _ _ => ⟨_, _, _, rfl⟩

/-! ### Micro-events and commands -/

/-- Whether a port write fails is the parameters' and the choices' matter (R14). -/
theorem State.perform_blind (e : MicroEvent) {done : State → State} (hd : Blind done) : Blind (State.perform e done) := by
  intro s m k tr
  have hw : (s.withObserved m k tr).writeFails = s.writeFails := rfl
  unfold State.perform
  rw [hw]
  split
  · exact State.failWrite_blind e s m k tr
  · exact hd.comp (State.apply_blind e) s m k tr

theorem State.runPending_blind : Blind State.runPending := by
  intro s m k tr
  cases hp : s.pending with
  | nil =>
    have hp' : (s.withObserved m k tr).pending = [] := hp
    simp only [State.runPending, hp, hp']
    exact ⟨_, _, _, rfl⟩
  | cons e rest =>
    have hp' : (s.withObserved m k tr).pending = e :: rest := hp
    rw [State.runPending_cons hp, State.runPending_cons hp']
    exact State.perform_blind e (fun _ _ _ _ => ⟨_, _, _, rfl⟩) s m k tr

theorem Upc.finish_blind (u : Upc) (c : Nat) : Blind (u.finish c) := by
  cases u <;> exact fun _ _ _ _ => ⟨_, _, _, rfl⟩

/-- The micro-program's events are made of the parameters, the cursor and the buffer (R124). -/
theorem State.microStep_blind (u : Upc) (c : Nat) : Blind (State.microStep u c) := by
  intro s m k tr
  have he : u.event c (s.withObserved m k tr) = u.event c s := by cases u <;> rfl
  rw [State.microStep, State.microStep, he]
  exact State.perform_blind _ (u.finish_blind c) s m k tr

/-- The admission checks read the port's state, the phase and the latches (R147). -/
theorem State.takeCommand_blind (i : Instr) {run : State → State} (hr : Blind run) : Blind (State.takeCommand i run) := by
  intro s m k tr
  have ha : admission i (s.withObserved m k tr) = admission i s := rfl
  cases h : admission i s with
  | some f =>
    rw [State.takeCommand_raises h, State.takeCommand_raises (ha.trans h)]
    exact ⟨_, _, _, rfl⟩
  | none =>
    rw [State.takeCommand_ok h, State.takeCommand_ok (ha.trans h)]
    exact hr.alike ⟨_, _, _, rfl⟩

theorem State.start_blind (i : Instr) (events : List MicroEvent) : Blind (State.start i events) :=
  State.takeCommand_blind i (State.runPending_blind.comp fun _ _ _ _ => ⟨_, _, _, rfl⟩)

/-! ### Outcomes -/

/-- The outcomes are of one kind, with the same fault or refusal or with states that agree on all but the target and the trace. -/
inductive OutcomesAlike : Host.Outcome State Fault Refusal → Host.Outcome State Fault Refusal → Prop where
  /-- Both go on. -/
  | next {s t : State} (h : s.Alike t) : OutcomesAlike (.next s) (.next t)
  /-- Both answer the fault. -/
  | fault (f : Fault) : OutcomesAlike (.fault f) (.fault f)
  /-- Both refuse. -/
  | refused (r : Refusal) : OutcomesAlike (.refused r) (.refused r)

theorem OutcomesAlike.refl (o : Host.Outcome State Fault Refusal) : OutcomesAlike o o := by
  cases o with
  | next s => exact .next ⟨s.dev, s.devEpoch, s.trace, rfl⟩
  | fault f => exact .fault f
  | refused r => exact .refused r

theorem OutcomesAlike.onNext {f : State → State} (hf : Blind f) {o o' : Host.Outcome State Fault Refusal} (h : OutcomesAlike o o') :
    OutcomesAlike (onNext f o) (onNext f o') := by
  cases h with
  | next h => exact .next (hf.alike h)
  | fault f => exact .fault f
  | refused r => exact .refused r

/-! ### The step -/

theorem State.consumeChoice_blind : Blind State.consumeChoice := by
  intro s m k tr
  have hch : (s.withObserved m k tr).choices = s.choices := rfl
  unfold State.consumeChoice
  rw [hch]
  split <;> exact ⟨_, _, _, rfl⟩

/-- An abort takes a new whole-memory draw, whatever the memory was (R149). -/
theorem State.abort_blind : Blind State.abort := fun _ _ _ _ => ⟨_, _, _, rfl⟩


section outcomes
variable (s : State) (m : Memory) (k : Nat) (tr : List Event)

/-- The first step of a command reads the parameters and the buffer besides what its admission does (R83, R84). -/
theorem exec_alike (i : Instr) : OutcomesAlike (exec i s) (exec i (s.withObserved m k tr)) := by
  cases i with
  | enable =>
    refine .next (State.takeCommand_blind .enable (Blind.comp (State.perform_blind _ ?_) ?_) s m k tr) <;>
      exact fun _ _ _ _ => ⟨_, _, _, rfl⟩
  | disable =>
    refine .next (State.takeCommand_blind .disable (Blind.comp (State.perform_blind _ ?_) ?_) s m k tr) <;>
      exact fun _ _ _ _ => ⟨_, _, _, rfl⟩
  | latchLow b => exact .next (State.start_blind _ _ s m k tr)
  | latchHigh b => exact .next (State.start_blind _ _ s m k tr)
  | strobe b => exact .next (State.start_blind _ _ s m k tr)
  | cycle a => exact .next (State.start_blind _ _ s m k tr)
  | transfer => exact .next (State.takeCommand_blind _ ((State.microStep_blind .s0 0).comp fun _ _ _ _ => ⟨_, _, _, rfl⟩) s m k tr)
  | wrData v => exact .next (State.perform_blind _ (fun _ _ _ _ => ⟨_, _, _, rfl⟩) s m k tr)
  | wrCtrl v => exact .next (State.perform_blind _ (fun _ _ _ _ => ⟨_, _, _, rfl⟩) s m k tr)

theorem hostMove_alike (x : HostMove) : OutcomesAlike (hostMove x s) (hostMove x (s.withObserved m k tr)) := by
  cases x with
  | command w =>
    cases hi : decodeCommand w with
    | illegal r =>
      simp only [hostMove, hi]
      exact .next ⟨_, _, _, rfl⟩
    | instr i =>
      rw [hostMove_command hi, hostMove_command hi]
      exact exec_alike s m k tr i
  | portOpen ok => cases ok <;> exact .next ⟨_, _, _, rfl⟩
  | portClose => exact .next ⟨_, _, _, rfl⟩
  | exit status => exact .next ⟨_, _, _, rfl⟩

theorem runMicroprogram_alike (u : Upc) : OutcomesAlike (s.runMicroprogram u) ((s.withObserved m k tr).runMicroprogram u) := by
  have hc : (s.withObserved m k tr).cursor = s.cursor := rfl
  unfold State.runMicroprogram
  rw [hc]
  split
  · exact .next (State.microStep_blind u _ s m k tr)
  · split
    · exact .refused _
    · exact .next (State.microStep_blind u 0 s m k tr)

/-- What the block does next is in `pending`, the micro-program's state or the host's moves (R83). -/
theorem advance_alike : OutcomesAlike (advance s) (advance (s.withObserved m k tr)) := by
  have hp : (s.withObserved m k tr).pending = s.pending := rfl
  have hu : (s.withObserved m k tr).upc = s.upc := rfl
  have hm : (s.withObserved m k tr).hostMoves = s.hostMoves := rfl
  unfold advance
  rw [hp, hu, hm]
  split
  · exact .next (State.runPending_blind s m k tr)
  · exact runMicroprogram_alike s m k tr _
  · exact hostMove_alike { s with hostMoves := _ } m k tr _
  · exact .refused _

/-- Whether the machine is stopped, what the boundary brings and whether the port is asked for a write are told by the rest of the
state (R83, R85, R148, R149). -/
theorem step_alike : OutcomesAlike (step s) (step (s.withObserved m k tr)) := by
  have hst : stopped (s.withObserved m k tr) = stopped s := rfl
  have hch : (s.withObserved m k tr).choices = s.choices := rfl
  have hpr : (s.withObserved m k tr).portRefuses = s.portRefuses := rfl
  have hnw : (s.withObserved m k tr).nextWritesPort = s.nextWritesPort := rfl
  unfold step stepOnce
  rw [hst, hch, hpr, hnw]
  split
  · exact .refl _
  · split
    · exact .next (Blind.comp State.abort_blind State.consumeChoice_blind s m k tr)
    · split
      · exact .next (State.consumeChoice_blind s m k tr)
      · exact (advance_alike s m k tr).onNext State.consumeChoice_blind

end outcomes

/-- Settles O52: every operation of a step is blind to the target and the trace, and so is the choice between them. -/
theorem deviceAndTraceAreNeverRead : Obligations.DeviceAndTraceAreNeverRead := by
  intro s m k tr
  have h : OutcomesAlike (step s) (step { s with dev := m, devEpoch := k, trace := tr }) := step_alike s m k tr
  generalize step s = o, step { s with dev := m, devEpoch := k, trace := tr } = o' at h ⊢
  cases h with
  | next h =>
    obtain ⟨_, _, _, rfl⟩ := h
    rfl
  | fault f => rfl
  | refused r => rfl

end Sys2Proof.Machine
end

section
/-! SUPPORT. The micro-program of TRANSFER step by step (R123, R124), its cursor (R29, R129), and what it has latched when it writes
the target (R126). -/

namespace Sys2Proof.Machine

/-! ### The cursor as an address (R129) -/

/-- The high byte is latched in the cycles at the multiples of 256 (R103). -/
theorem relatchDue_cursorAddr (c : Nat) : relatchDue (cursorAddr c) = true ↔ c % 256 = 0 := by
  rw [relatchDue_iff, cursorAddr, BitVec.toNat_ofNat, Config.hiRelatchPeriod]
  omega

/-- Progress is reported in the cycles at the multiples of 1024 (R125). -/
theorem progressDue_iff (c : Nat) : progressDue c = true ↔ c % 1024 = 0 := beq_iff_eq

theorem cursorAddr_toNat {c : Nat} (h : c < 65536) : (cursorAddr c).toNat = c := Nat.mod_eq_of_lt h

theorem highByte_toNat (a : Addr) : (highByte a).toNat = a.toNat / 256 := by
  have := a.isLt
  simp only [highByte, BitVec.extractLsb'_toNat, Nat.shiftRight_eq_div_pow]
  omega

theorem lowByte_toNat (a : Addr) : (lowByte a).toNat = a.toNat % 256 := by
  simp [lowByte]

theorem highByte_cursorAddr (c : Nat) : highByte (cursorAddr c) = BitVec.ofNat 8 (c / 256) := by
  apply BitVec.eq_of_toNat_eq
  rw [highByte_toNat, cursorAddr, BitVec.toNat_ofNat, BitVec.toNat_ofNat]
  omega

theorem lowByte_cursorAddr (c : Nat) : lowByte (cursorAddr c) = BitVec.ofNat 8 c := by
  apply BitVec.eq_of_toNat_eq
  rw [lowByte_toNat, cursorAddr, BitVec.toNat_ofNat, BitVec.toNat_ofNat]
  omega

/-- The buffer byte of cycle `c` (R42). -/
theorem bufByte_cursorAddr (s : State) {c : Nat} (h : c < 65536) : s.bufByte (cursorAddr c) = s.readBuf (c % s.bufSize) := by
  rw [State.bufByte, bufIndex, cursorAddr_toNat h]

theorem bufSize_pos {n : Nat} (h : bufSizeOk n = true) : 0 < n := by
  obtain ⟨j, -, rfl⟩ := bufSizeOk_iff.1 h
  exact Nat.two_pow_pos j

/-! ### The entry function and the rows (R123, R124) -/

/-- Settles O33: the branches of the entry function, with the two periods on the cursor. -/
theorem entryStates : Obligations.EntryStates := by
  intro c _
  simp only [entry, Config.cycles, progressDue_iff, relatchDue_cursorAddr]

/-- A control write does not depend on the cursor (R81). -/
theorem State.writeCtrl_withCursor (s : State) (x : Option Nat) (v : Byte) :
    State.writeCtrl v { s with cursor := x } = { s.writeCtrl v with cursor := x } := by
  have hreact (t : State) (o : Option Lines) (n : Lines) :
      State.react o n { t with cursor := x } = { t.react o n with cursor := x } := by
    have hr : deviceReaction o n { t with cursor := x } = deviceReaction o n t := rfl
    rw [State.react, hr, State.react]
    cases deviceReaction o n t <;> rfl
  unfold State.writeCtrl
  dsimp only
  split
  · exact hreact (s.storeCtrl v) s.lines _
  · split
    · rfl
    · exact hreact { s.storeCtrl v with draws := s.draws + 1 } s.lines _

/-- A row that does not read the cursor is the same for every cursor value (R124). -/
theorem State.row_eq_of_not_readsCursor {u : Upc} (h : u.readsCursor = false) (c d : Nat) (s : State) : s.row u c = s.row u d := by
  cases u with
  | s0 | s11 | s12 => rfl
  | _ => cases h

/-- The micro-program's next micro-event, where its port write does not fail, is the row of its state; the row need not find a cursor
where it does not read it (R83, R124). -/
theorem State.runMicroprogram_ok {s : State} (hf : s.writeFails = false) {u : Upc} {c : Nat}
    (hc : s.cursor = some c ∨ u.readsCursor = false) : s.runMicroprogram u = .next (s.row u c) := by
  unfold State.runMicroprogram
  cases hcur : s.cursor with
  | some d =>
    refine congrArg Host.Outcome.next ((State.microStep_ok hf u d).trans ?_)
    rcases hc with hc | hc
    · rw [Option.some.inj (hcur.symm.trans hc)]
    · exact State.row_eq_of_not_readsCursor hc d c s
  | none =>
    obtain hc | hc := hc
    · cases hcur.symm.trans hc
    · rw [State.microStep_ok hf, State.row_eq_of_not_readsCursor hc 0 c]
      simp [hc]

/-- One step of the micro-program is the row of its state (R83, R124). -/
theorem step_row {s : State} {u : Upc} {c : Nat} (hr : s.Running) (hp : s.pending = []) (hch : s.choices = []) (hu : s.upc = some u)
    (hc : s.cursor = some c ∨ u.readsCursor = false) : step s = .next (s.row u c) := by
  have hadv : advance s = .next (s.row u c) := by
    simp only [advance, hp, hu, State.runMicroprogram_ok (writeFails_of_nil hch) hc]
  rw [step_proceeds hr hch, hadv, onNext, consumeChoice_of_nil ((advance_choices hadv).trans hch)]

/-- Settles O34: each row of R124 is one step. -/
theorem microProgramRows : Obligations.MicroProgramRows := by
  intro s c hr hp hch hc hlt
  dsimp only
  have hstep {u : Upc} (hu : s.upc = some u) : step s = .next (s.row u c) := step_row hr hp hch hu (.inl hc)
  refine ⟨fun hu => (hstep hu).trans ?_, fun hu => (hstep hu).trans ?_, fun hu => hstep hu, fun hu => hstep hu,
    fun hu => hstep hu, fun hu => hstep hu, fun hu => hstep hu, fun hu => hstep hu, fun hu => (hstep hu).trans ?_,
    fun hu => hstep hu, fun hu => hstep hu, fun x hu => ?_, fun x hu => ?_⟩
  · rw [← entry_zero]
    rfl
  · simp only [row_progress, relatchDue_cursorAddr]
    rfl
  · rw [row_payload, bufByte_cursorAddr s hlt]
  · have hoff := s.writeCtrl_withCursor x (ctrlByte s.params .off)
    rw [step_row (s := { s with cursor := x }) (c := c) hr hp hch hu (.inr rfl)]
    simp only [State.row, Upc.event, State.apply, hoff, Upc.finish]
  · exact step_row (s := { s with cursor := x }) (c := c) hr hp hch hu (.inr rfl)

/-- Settles O32: TRANSFER is taken outside a session, and S0's write does not depend on the sequencer. -/
theorem transferFirstStep : Obligations.TransferFirstStep := by
  intro s ho hph hf
  have hw := s.writeCtrl_sequencer (some 0x700000) s.pending (some .s0) (ctrlByte s.params .idle)
  refine congrArg Host.Outcome.next ((State.takeCommand_ok (admission_outside ho hph (.inr rfl)) _).trans ?_)
  refine Eq.trans (State.microStep_ok (s := { s with word := some 0x700000, upc := some .s0 }) hf .s0 0) ?_
  simp only [State.row, Upc.event, State.apply, hw, Upc.finish, entry_zero]
  rw [← State.writeCtrl_pending]

/-! ### The cursor and the latches under the invariant (R29, R126, R129) -/

/-- Where the cursor of TRANSFER is set, it stands at its exit value in S11, or in a cycle below it (R29, R129). -/
theorem State.TransferOk.cursor_cases {s : State} {u : Upc} {c : Nat} (h : s.TransferOk u) (hc : s.cursor = some c) :
    u = .s11 ∧ c = 65536 ∨ u ≠ .s11 ∧ c < 65536 ∧ s.cycleOk u c := by
  obtain ⟨-, -, -, hu⟩ := h
  cases u with
  | s0 => exact hu.elim
  | s11 => exact .inl ⟨rfl, Option.some.inj (hc.symm.trans hu.2)⟩
  | s12 => cases hc.symm.trans hu.2
  | _ =>
    obtain ⟨-, d, hlt, hd, hok⟩ := hu
    obtain rfl : c = d := Option.some.inj (hc.symm.trans hd)
    exact .inr ⟨nofun, hlt, hok⟩

/-- Outside TRANSFER there is no cursor (R29). -/
theorem State.SequencerOk.upc_of_cursor {s : State} {c : Nat} (h : s.SequencerOk) (hc : s.cursor = some c) :
    ∃ u, s.upc = some u ∧ s.TransferOk u := by
  cases hu : s.upc with
  | some u => exact ⟨u, rfl, h.transferOk hu⟩
  | none =>
    simp only [State.SequencerOk, hu] at h
    cases hc.symm.trans h.1

/-- Settles O38: the invariant bounds the cursor, and its quotients and remainders follow. -/
theorem cursorStaysInRange : Obligations.CursorStaysInRange := by
  intro s c hinv hr hc
  have hidx : c % s.bufSize ≤ s.bufSize - 1 := Nat.le_sub_one_of_lt (Nat.mod_lt c (bufSize_pos hinv.size))
  obtain ⟨u, hu, ht⟩ := (hinv.sequencer hr.1 hr.2.1).upc_of_cursor hc
  obtain ⟨rfl, rfl⟩ | ⟨-, hlt, -⟩ := ht.cursor_cases hc
  · exact ⟨le_rfl, fun _ => hu, hidx, fun h => absurd hu h⟩
  · refine ⟨hlt.le, fun h => by omega, hidx, fun _ => ⟨by omega, cursorAddr_toNat hlt, ?_, ?_⟩⟩
    · rw [highByte_toNat, cursorAddr_toNat hlt]
      omega
    · rw [lowByte_toNat, cursorAddr_toNat hlt]

/-- Settles O35: at S10 the invariant has both latches on the bytes of the cursor and its byte in `DR`. -/
theorem transferAddressesItsCycle : Obligations.TransferAddressesItsCycle := by
  intro s c hinv hr hu hc _ hch
  have ht := (hinv.sequencer hr.1 hr.2.1).transferOk hu
  obtain ⟨h, -⟩ | ⟨-, hlt, hhi, hlo, hdr⟩ := ht.cursor_cases hc
  · cases h
  obtain ⟨hp, -, hstrobe, -⟩ := ht
  have hrow := row_deviceWrite hinv.params hstrobe hhi hlo hdr c
  rw [joinAddr_split, bufByte_cursorAddr s hlt] at hrow
  refine ⟨hlt, highByte_cursorAddr c ▸ hhi, lowByte_cursorAddr c ▸ hlo, _,
    step_row hr hp (List.head?_eq_none_iff.1 hch) hu (.inl hc), by rw [hrow]; rfl, ?_⟩
  rw [hrow, newEvents_of_append rfl]
  simp only [List.filterMap, Event.knownWrite, joinAddr_split]
  rfl

end Sys2Proof.Machine
end

section
/-! SUPPORT. CYCLE: its admission, and the latching and the strobe its steps perform after the first (R120, R121). -/

namespace Sys2Proof.Machine

/-- Without a held high latch, a CYCLE that does not latch the high byte itself is refused (R120). -/
theorem admission_cycle_unlatched {s : State} {a : Addr} (hs : s.InSession) (ha : a.toNat % 256 ≠ 0) (h : ∀ b, s.latHi ≠ .held b) :
    admission (.cycle a) s = some (.unlatchedAddress s.latHi s.latLo) := by
  rw [admission_session hs.1 hs.2 rfl, latchFault]
  refine if_neg fun hready => ?_
  obtain hdue | hheld := Bool.or_eq_true_iff.1 hready
  · exact ha ((relatchDue_iff a).1 hdue)
  · obtain ⟨b, hb⟩ := Latch.eq_held_of_isHeld hheld
    exact h b hb

/-- The micro-events left of a cycle after the write of the low byte: the low latch, the payload `d` and the strobe (R120). -/
def lowTailEvents (p : Params) (d : Byte) : List MicroEvent :=
  [.wrCtrl (ctrlByte p .lowOpen), .wrCtrl (ctrlByte p .idle), .wrData d, .wrCtrl (ctrlByte p .strobe), .wrCtrl (ctrlByte p .idle)]

/-- The micro-events left of a cycle after the write of the high byte: the high latch and then the low byte `l` (R120). -/
def highTailEvents (p : Params) (l d : Byte) : List MicroEvent :=
  .wrCtrl (ctrlByte p .highOpen) :: .wrCtrl (ctrlByte p .idle) :: .wrData l :: lowTailEvents p d

/-- The trace of a cycle's last five steps, which write `d` at the address `{h, l}` (R120). -/
def lowTailTrace (p : Params) (h l d : Byte) : List Event :=
  [.wc (ctrlByte p .lowOpen), .wc (ctrlByte p .idle), .capLo (some l),
   .wd d, .wc (ctrlByte p .strobe), .wc (ctrlByte p .idle), .devw (some h) (some l) (some d)]

/-- The machine runs with the lines at `C_IDLE`, and the port accepts every write. -/
abbrev State.AtIdle (s : State) : Prop := s.Running ∧ s.choices = [] ∧ paramsWf s.params = true ∧ s.holds .idle

section tails
variable {s : State} {h l d : Byte} (hs : s.AtIdle)
include hs

/-- The last five steps of a cycle latch the low byte and write the target (R120). -/
theorem steps_lowTail (hh : s.latHi = .held h) (hd : s.dr = some l) (hpend : s.pending = lowTailEvents s.params d) :
    steps 5 s = .next { s with
      dr := some d, latLo := .held l, dev := s.devWritten (joinAddr h l) d, pending := []
      trace := s.trace ++ lowTailTrace s.params h l d } := by
  have ⟨hr, hch, hp, hc⟩ := hs
  -- `by exact` is elaborated last, when the goal has fixed the state the step starts from.
  refine Eq.trans (steps_add (k := 3) (steps_lowPulse hr hch hp hc hd hpend)) ?_
  refine Eq.trans (steps_succ (step_pending (by exact hr) (by exact hch) rfl)) ?_
  refine Eq.trans (steps_strobePulse (by exact hr) (by exact hch) (by exact hp) (by exact hc) hh rfl rfl rfl) ?_
  simp only [State.apply, State.writeData, lowTailTrace, List.append_assoc, List.cons_append, List.nil_append]
  rfl

/-- The last eight steps of a cycle that latches the high byte (R120). -/
theorem steps_highTail (hd : s.dr = some h) (hpend : s.pending = highTailEvents s.params l d) :
    steps 8 s = .next { s with
      dr := some d, latLo := .held l, latHi := .held h, dev := s.devWritten (joinAddr h l) d, pending := []
      trace := s.trace ++ [.wc (ctrlByte s.params .highOpen), .wc (ctrlByte s.params .idle), .capHi (some h)] ++
        .wd l :: lowTailTrace s.params h l d } := by
  have ⟨hr, hch, hp, hc⟩ := hs
  refine Eq.trans (steps_add (k := 6) (steps_highPulse hr hch hp hc hd hpend)) ?_
  refine Eq.trans (steps_succ (step_pending (by exact hr) (by exact hch) rfl)) ?_
  refine Eq.trans (steps_lowTail (by exact hs) rfl rfl rfl) ?_
  simp only [State.apply, State.writeData, List.append_assoc, List.cons_append, List.nil_append]
  rfl

end tails

/-- Settles O30: the first step takes the command, and the steps left are those of its pulses. -/
theorem cycleRuns : Obligations.CycleRuns := by
  refine ⟨fun a s ho => exec_closed ho nofun nofun,
    fun a s ho hp => exec_faulted nofun nofun (admission_notEnabled ho hp rfl),
    fun a s hs ha hne => exec_faulted nofun nofun (admission_cycle_unlatched hs ha hne), fun a s rest hs hph hc hm => ?_⟩
  have ⟨hr, hb, ho, hch, hp⟩ := hs
  have hidle : s.AtIdle := ⟨hr, hch, hp, hc⟩
  have hf := writeFails_of_nil hch
  have hsplit : joinAddr (a.extractLsb' 8 8) (a.extractLsb' 0 8) = a := joinAddr_split a
  obtain ⟨hprogress, hrelatch, hkeep⟩ := cycleFirstStep a { s with hostMoves := rest } ⟨ho, hph⟩
  refine ⟨fun h ha hh => ?_, fun ha hk => ?_, fun hk => ?_⟩
  · refine Eq.trans (steps_succ (step_command hs (commandWordOf_cycle a) hm (hkeep h hf ha hh))) ?_
    refine Eq.trans (steps_lowTail (by exact hidle) hh rfl rfl) ?_
    rw [← hb.1, List.append_assoc]
    rfl
  · refine Eq.trans (steps_succ (step_command hs (commandWordOf_cycle a) hm (hrelatch hf hk ha))) ?_
    refine Eq.trans (steps_highTail (by exact hidle) rfl rfl) ?_
    rw [hsplit, ← hb.1]
    simp only [List.append_assoc]
    rfl
  · refine Eq.trans (steps_succ (step_command hs (commandWordOf_cycle a) hm (hprogress hk))) ?_
    refine Eq.trans (steps_succ (step_pending (by exact hr) (by exact hch) rfl)) ?_
    refine Eq.trans (steps_highTail (by exact hidle) rfl rfl) ?_
    rw [hsplit, ← hb.1]
    simp only [State.apply, State.writeData, List.append_assoc]
    rfl

/-- `{h, a[7:0]}` as a number (R25). -/
theorem joinAddr_lowByte_toNat (h : Byte) (a : Addr) : (joinAddr h (lowByte a)).toNat = 256 * h.toNat + a.toNat % 256 := by
  rw [joinAddr, BitVec.toNat_append, ← Nat.shiftLeft_add_eq_or_of_lt (lowByte a).isLt, Nat.shiftLeft_eq, lowByte_toNat,
    Nat.mul_comm]

/-- Where `h` is not the high byte of `a`, `{h, a[7:0]}` is another address (R121). -/
theorem ne_joinAddr_of_ne_highByte {a : Addr} {h : Byte} (hne : h ≠ highByte a) : a ≠ joinAddr h (lowByte a) := by
  intro he
  refine hne (BitVec.eq_of_toNat_eq ?_)
  have hnat := congrArg BitVec.toNat he
  rw [joinAddr_lowByte_toNat] at hnat
  rw [highByte_toNat]
  omega

/-- Settles O31: the run of CYCLE that keeps the high latch, whose one device write goes to the cell of `{h, a[7:0]}`. -/
theorem staleHighLatchWritesThere : Obligations.StaleHighLatchWritesThere := by
  intro a h s rest hs hph hc ha hh hne hm
  obtain ⟨-, -, -, hruns⟩ := cycleRuns
  obtain ⟨hkeep, -, -⟩ := hruns a s rest hs hph hc hm
  obtain ⟨⟨hfault, -, -⟩, -⟩ := hs
  refine ⟨_, hkeep h ha hh, hfault, rfl, ?_, fun hk => ?_⟩
  · rw [newEvents_of_append rfl]
    rfl
  · have hcell := deviceWriteTouchesOneCell s (joinAddr h (lowByte a)) (s.readBuf (a.toNat % s.bufSize))
    rw [hk] at hcell
    have hmod (x : Addr) : x.toNat % 2 ^ 16 = x.toNat := Nat.mod_eq_of_lt x.isLt
    refine ⟨(hcell a.toNat).trans (if_neg ?_), fun hover => (hcell _).trans ((if_pos ?_).trans ?_)⟩
    · rw [hmod]
      exact fun he => ne_joinAddr_of_ne_highByte hne (BitVec.eq_of_toNat_eq he)
    · rw [hmod, joinAddr_lowByte_toNat]
    · rw [hover]

end Sys2Proof.Machine
end

section
/-! SUPPORT. A whole TRANSFER (R127, R128): S0, then 65,536 cycles, each of which keeps what is known after the cycles before it, then
S11 and S12; and what the observers of the trace see of it. -/

namespace Sys2Proof.Machine

/-! ### Periods -/

/-- How many of the numbers below `c` are multiples of `k`. -/
def periods (k c : Nat) : Nat := (c + k - 1) / k

section periods
variable {k : Nat} (hk : 0 < k) (c : Nat)
include hk

theorem periods_eq_succ_div : periods k (c + 1) = c / k + 1 := by
  rw [periods, show c + 1 + k - 1 = c + k by omega, Nat.add_div_right c hk]

theorem periods_eq : periods k c = if c % k = 0 then c / k else c / k + 1 := by
  cases c with
  | zero => simp [periods, hk]
  | succ d =>
    have hdvd := Nat.dvd_iff_mod_eq_zero (m := k) (n := d + 1)
    rw [periods_eq_succ_div hk, Nat.succ_div]
    by_cases h : (d + 1) % k = 0 <;> simp [hdvd, h]

/-- One more period begins at each multiple of `k`. -/
theorem periods_succ : periods k (c + 1) = periods k c + if c % k = 0 then 1 else 0 := by
  rw [periods_eq_succ_div hk, periods_eq hk]
  split <;> rfl

/-- The multiples of `k` below `c`, divided by `k`. -/
theorem range_periods_succ :
    List.range (periods k (c + 1)) = List.range (periods k c) ++ if c % k = 0 then [c / k] else [] := by
  rw [periods_eq_succ_div hk, periods_eq hk]
  split
  · exact List.range_succ
  · exact (List.append_nil _).symm

end periods

/-! ### What the trace shows -/

/-- What the observers of R128 see in a list of events. -/
structure Seen where
  /-- The known device writes. -/
  writes : List (Addr × Byte)
  /-- The known bytes of the high captures. -/
  highs : List Byte
  /-- The known bytes of the low captures. -/
  lows : List Byte
  /-- The values of the progress events. -/
  progress : List Nat
  /-- The number of `WD`. -/
  wd : Nat
  /-- The number of `WC`. -/
  wc : Nat
  /-- The number of `COMPLETE`. -/
  complete : Nat

/-- What is seen in two lists in a row. -/
def Seen.add (x y : Seen) : Seen where
  writes := x.writes ++ y.writes
  highs := x.highs ++ y.highs
  lows := x.lows ++ y.lows
  progress := x.progress ++ y.progress
  wd := x.wd + y.wd
  wc := x.wc + y.wc
  complete := x.complete + y.complete

/-- What is seen in `events`. -/
def seen (events : List Event) : Seen where
  writes := events.filterMap Event.knownWrite
  highs := events.filterMap Event.knownHigh
  lows := events.filterMap Event.knownLow
  progress := events.filterMap Event.progressValue
  wd := events.countP Event.isWd
  wc := events.countP Event.isWc
  complete := events.countP (· == .complete)

theorem seen_append (a b : List Event) : seen (a ++ b) = (seen a).add (seen b) := by
  simp only [seen, Seen.add, List.filterMap_append, List.countP_append]

theorem seen_progress (due : Prop) [Decidable due] (k : Nat) :
    seen (if due then [.progress k] else []) = ⟨[], [], [], if due then [k] else [], 0, 0, 0⟩ := by
  split <;> rfl

theorem seen_highEvents (due : Prop) [Decidable due] (p : Params) (a : Addr) :
    seen (if due then highEvents p a else []) =
      ⟨[], if due then [highByte a] else [], [], [], if due then 1 else 0, 2 * if due then 1 else 0, 0⟩ := by
  split <;> rfl

theorem seen_lowStrobeEvents (p : Params) (a : Addr) (d : Byte) :
    seen (lowStrobeEvents p a d) = ⟨[(a, d)], [], [lowByte a], [], 2, 4, 0⟩ := by
  have hseen : seen (lowStrobeEvents p a d) = ⟨[(joinAddr (highByte a) (lowByte a), d)], [], [lowByte a], [], 2, 4, 0⟩ := rfl
  rw [hseen, joinAddr_split]

/-- A cycle shows its device write and its low capture, and the progress and the high capture that are due (R120). -/
theorem seen_cycleTrace (p : Params) {c : Nat} (hc : c < 65536) (d : Byte) : seen (cycleTrace p (cursorAddr c) d) = {
    writes := [(cursorAddr c, d)]
    highs := if c % 256 = 0 then [BitVec.ofNat 8 (c / 256)] else []
    lows := [BitVec.ofNat 8 c]
    progress := if c % 1024 = 0 then [c / 1024] else []
    wd := (if c % 256 = 0 then 1 else 0) + 2
    wc := (2 * if c % 256 = 0 then 1 else 0) + 4
    complete := 0 } := by
  rw [cycleTrace, seen_append, seen_append, seen_progress, seen_highEvents, seen_lowStrobeEvents, cursorAddr_toNat hc]
  simp only [Seen.add, progressDue_iff, relatchDue_cursorAddr, highByte_cursorAddr, lowByte_cursorAddr, progressCount,
    Config.progressPeriod, List.nil_append, List.append_nil, Nat.zero_add]

/-- The events of the cycles below `c` of a TRANSFER (R124). -/
def State.cyclesTrace (s : State) (c : Nat) : List Event :=
  (List.range c).flatMap fun i => cycleTrace s.params (cursorAddr i) (s.bufByte (cursorAddr i))

theorem State.cyclesTrace_succ (s : State) (c : Nat) :
    s.cyclesTrace (c + 1) = s.cyclesTrace c ++ cycleTrace s.params (cursorAddr c) (s.bufByte (cursorAddr c)) := by
  rw [State.cyclesTrace, List.range_succ, List.flatMap_append, List.flatMap_singleton]
  rfl

/-- What is seen of the cycles below `c` (R128). -/
theorem seen_cyclesTrace (s : State) {c : Nat} (hc : c ≤ 65536) : seen (s.cyclesTrace c) = {
    writes := (List.range c).map fun i => (cursorAddr i, s.readBuf (i % s.bufSize))
    highs := (List.range (periods 256 c)).map (BitVec.ofNat 8)
    lows := (List.range c).map (BitVec.ofNat 8)
    progress := List.range (periods 1024 c)
    wd := 2 * c + periods 256 c
    wc := 4 * c + 2 * periods 256 c
    complete := 0 } := by
  induction c with
  | zero => rfl
  | succ c ih =>
    have hlt : c < 65536 := hc
    rw [State.cyclesTrace_succ, seen_append, ih hlt.le, seen_cycleTrace _ hlt, bufByte_cursorAddr s hlt,
      range_periods_succ (by omega), range_periods_succ (by omega), periods_succ (by omega), List.range_succ]
    simp only [Seen.add, List.map_append, Seen.mk.injEq]
    refine ⟨rfl, ?_, rfl, trivial, by omega, by omega, trivial⟩
    split <;> rfl

/-! ### The cycles -/

/-- What `BUF` gives for an address is a matter of the inputs (R38, R42). -/
theorem State.readBuf_of_inputs {s t : State} (h : t.inputs = s.inputs) (i : Nat) :
    t.readBuf (i % t.bufSize) = s.readBuf (i % s.bufSize) := by
  simp only [Prod.mk.injEq] at h
  obtain ⟨-, hbuf, hsize⟩ := h
  rw [State.readBuf, hbuf, hsize]
  rfl

/-- What is known of the state `t` in which the cycles below `c` of a TRANSFER are done, `s` being the state in which the first of them
begins (R126, R127). -/
structure State.Cycled (s t : State) (c : Nat) : Prop where
  /-- The micro-program stands at the entry of cycle `c`. -/
  entry : t.At (entry c) c
  /-- The lines are `C_IDLE`. -/
  idle : t.holds .idle
  /-- The inputs have stayed. -/
  inputs : t.inputs = s.inputs
  /-- The host's moves have stayed. -/
  moves : t.hostMoves = s.hostMoves
  /-- `DR` and the latches hold what the last cycle left. -/
  last : ∀ a, c = a + 1 → t.dr = some (s.bufByte (cursorAddr a)) ∧ t.latLo = .held (lowByte (cursorAddr a)) ∧
    t.latHi = .held (highByte (cursorAddr a))
  /-- Each cycle has left its events. -/
  trace : t.trace = s.trace ++ s.cyclesTrace c
  /-- Each cell holds the byte of the last cycle that wrote it. -/
  cells : s.params.deviceWrite = .overwrite → ∀ a < c, c ≤ a + 2 ^ s.params.devAddrBits →
    t.devKnown (s.devAddr (cursorAddr a)) = some (s.bufByte (cursorAddr a))

/-- No cycle is done yet. -/
theorem State.cycled_zero {s : State} (h : s.At .s1 0) (hidle : s.holds .idle) : s.Cycled s 0 where
  entry := entry_zero ▸ h
  idle := hidle
  inputs := rfl
  moves := rfl
  last := nofun
  trace := (List.append_nil _).symm
  cells := nofun

/-- Fewer than `m` apart, two different addresses have different cells (R49). -/
theorem mod_ne_of_lt {a c m : Nat} (h : a < c) (hm : c < a + m) : a % m ≠ c % m := by
  intro he
  have hzero : (c - a) % m = 0 := Nat.sub_mod_eq_zero_of_mod_eq he.symm
  rw [Nat.mod_eq_of_lt (by omega)] at hzero
  omega

section cycled
variable {s t : State} {c : Nat} (h : s.Cycled t c)
include h

theorem State.Cycled.params_eq : t.params = s.params := congrArg Prod.fst h.inputs

theorem State.Cycled.bufByte_eq (a : Addr) : t.bufByte a = s.bufByte a := State.readBuf_of_inputs h.inputs a.toNat

/-- A cycle that does not latch the high byte finds it latched (R126). -/
theorem State.Cycled.latHi_eq (hc : relatchDue (cursorAddr c) = false) : t.latHi = .held (highByte (cursorAddr c)) := by
  cases c with
  | zero => cases hc
  | succ a =>
    obtain ⟨-, -, hhi⟩ := h.last a rfl
    rw [hhi, highByte_next hc]

/-- A cycle writes its own cell and no other of those written in the cycles before it that still count (R50). -/
theorem State.Cycled.cells_succ (hlt : c < 65536) (hover : s.params.deviceWrite = .overwrite) {a : Nat} (ha : a < c + 1)
    (hk : c + 1 ≤ a + 2 ^ s.params.devAddrBits) :
    Memory.read (t.devWritten (cursorAddr c) (s.bufByte (cursorAddr c))) (s.devAddr (cursorAddr a)) =
      some (s.bufByte (cursorAddr a)) := by
  have hcell := deviceWriteTouchesOneCell t (cursorAddr c) (s.bufByte (cursorAddr c)) (s.devAddr (cursorAddr a))
  rw [h.params_eq, hover] at hcell
  obtain rfl | hac : a = c ∨ a < c := by omega
  · exact hcell.trans (if_pos rfl)
  · refine (hcell.trans (if_neg ?_)).trans (h.cells hover a hac (by omega))
    rw [State.devAddr, devIndex, cursorAddr_toNat hlt, cursorAddr_toNat (by omega)]
    exact mod_ne_of_lt hac (by omega)

/-- One more cycle (R124). -/
theorem State.Cycled.succ (hlt : c < 65536) : ∃ u, steps (cycleSteps c) t = .next u ∧ s.Cycled u (c + 1) := by
  have hrun := steps_cycle hlt h.entry h.idle h.latHi_eq
  rw [h.bufByte_eq] at hrun
  refine ⟨_, hrun, ?_⟩
  obtain ⟨hp, hr, hpe, -, -, hch⟩ := h.entry
  exact {
    entry := ⟨hp, hr, hpe, rfl, rfl, hch⟩
    idle := rfl
    inputs := h.inputs
    moves := h.moves
    last := fun a ha => by
      obtain rfl : c = a := Nat.succ.inj ha
      exact ⟨rfl, rfl, rfl⟩
    trace := by simp only [h.trace, h.params_eq, State.cyclesTrace_succ, List.append_assoc]
    cells := fun hover a ha hk => h.cells_succ hlt hover ha hk }

end cycled

/-- How many steps the cycles below `c` take (R128). -/
def stepsBefore (c : Nat) : Nat := 6 * c + 3 * periods 256 c + periods 1024 c

theorem stepsBefore_succ (c : Nat) : stepsBefore (c + 1) = stepsBefore c + cycleSteps c := by
  simp only [stepsBefore, cycleSteps, periods_succ (k := 256) (by omega), periods_succ (k := 1024) (by omega),
    progressDue_iff, relatchDue_cursorAddr]
  split <;> split <;> omega

/-- The cycles of a TRANSFER (R124, R126). -/
theorem steps_cycles {s : State} (h : s.At .s1 0) (hidle : s.holds .idle) {c : Nat} (hc : c ≤ 65536) :
    ∃ t, steps (stepsBefore c) s = .next t ∧ s.Cycled t c := by
  induction c with
  | zero => exact ⟨s, rfl, State.cycled_zero h hidle⟩
  | succ c ih =>
    obtain ⟨t, ht, hcycled⟩ := ih (by omega)
    obtain ⟨u, hu, hnext⟩ := hcycled.succ hc
    rw [stepsBefore_succ]
    exact ⟨u, (steps_add ht).trans hu, hnext⟩

/-! ### The beginning and the end -/

/-- What S0 leaves of a state `s` that takes TRANSFER, `rest` being the host's moves after it (R122, R124). -/
structure State.Started (s t : State) (rest : List HostMove) : Prop where
  /-- The first cycle is next. -/
  entry : t.At .s1 0
  /-- The lines are `C_IDLE`. -/
  idle : t.holds .idle
  /-- The inputs have stayed. -/
  inputs : t.inputs = s.inputs
  /-- The command is taken off the host's moves. -/
  moves : t.hostMoves = rest
  /-- Nothing that is known shows but the control write (R48). -/
  trace : ∃ new, t.trace = s.trace ++ new ∧ seen new = ⟨[], [], [], [], 0, 1, 0⟩

/-- Outside a session the lines are unknown or `C_OFF` (R92). -/
theorem State.SequencerOk.cr_outside {s : State} (h : s.SequencerOk) (hb : s.Between) (ho : s.portOpen = true)
    (hph : s.phase = .idle) : s.cr = none ∨ s.holds .off := by
  simp only [State.SequencerOk, hb.2] at h
  obtain ⟨-, -, houtside, -⟩ := h
  exact (houtside ho hph).2

/-- The control write of ENABLE shows nothing else that is known: from `⊥` it may cause one unknown write and unknown captures, from
`C_OFF` nothing reacts (R90). -/
theorem seen_enableWrite {s : State} (hp : paramsWf s.params = true) (hc : s.cr = none ∨ s.holds .off) :
    ∃ new, (s.writeCtrl (ctrlByte s.params .idle)).trace = s.trace ++ new ∧ seen new = ⟨[], [], [], [], 0, 1, 0⟩ := by
  rcases hc with hc | hc
  · rw [writeCtrl_unknown_idle hp hc]
    simp only [List.append_assoc]
    refine ⟨_, rfl, ?_⟩
    split <;> rfl
  · rw [writeCtrl_off_idle hp hc]
    exact ⟨_, rfl, rfl⟩

/-- The events of S11 and S12 (R124). -/
def finishTrace (p : Params) : List Event := [.wc (ctrlByte p .off), .complete]

/-- The state after S11 and S12 (R124). -/
def State.finished (t : State) : State :=
  { t with
    cr := some (ctrlByte t.params .off), trace := t.trace ++ finishTrace t.params
    phase := .idle, cursor := none, upc := none }

/-- S11 ends the session and S12 the TRANSFER (R124). -/
theorem steps_finish {t : State} {c : Nat} (h : t.At .s11 c) (hidle : t.holds .idle) : steps 2 t = .next t.finished := by
  obtain ⟨hp, hr, hpe, hu, hc, hch⟩ := h
  refine Eq.trans (steps_at ⟨hp, hr, hpe, hu, hc, hch⟩ (row_disable hp hidle c)) ?_
  refine Eq.trans (steps_succ (step_row (u := .s12) (c := 0) (by exact hr) (by exact hpe) (by exact hch) rfl (.inr rfl))) ?_
  rw [row_complete, List.append_assoc]
  rfl

section whole
variable {s : State} {rest : List HostMove} (hinv : s.Inv) (hs : s.Ready) (hph : s.phase = .idle)
  (hm : s.hostMoves = .command 0x700000 :: rest)
include hinv hs hph hm

/-- The step that takes TRANSFER (R83, R124). -/
theorem step_transfer : ∃ t, step s = .next t ∧ s.Started t rest := by
  have ⟨hr, hb, ho, hch, hp⟩ := hs
  have hexec := transferFirstStep { s with hostMoves := rest } ho hph (writeFails_of_nil hch)
  have hq := (hinv.sequencer hr.1 hr.2.1).cr_outside hb ho hph
  refine ⟨_, step_command hs rfl hm hexec, ?_⟩
  exact {
    entry := ⟨by simpa using hp, by simpa using hr, by simpa using hb.1, rfl, rfl, by simpa using hch⟩
    idle := by simp [State.holds]
    inputs := by simp
    moves := by simp
    trace := seen_enableWrite (s := { s with hostMoves := rest }) hp hq }

/-- A whole TRANSFER: its first step, the cycles, and its end (R128). -/
theorem steps_wholeTransfer : ∃ u t, s.Started u rest ∧ u.Cycled t 65536 ∧ steps 394051 s = .next t.finished := by
  obtain ⟨u, hu, hstart⟩ := step_transfer hinv hs hph hm
  obtain ⟨t, ht, hcycled⟩ := steps_cycles hstart.entry hstart.idle le_rfl
  have hcount : 394050 = stepsBefore 65536 + 2 := by decide
  have hs11 : entry 65536 = .s11 := by decide
  refine ⟨u, t, hstart, hcycled, ?_⟩
  rw [steps_succ hu, hcount, steps_add ht]
  exact steps_finish (hs11 ▸ hcycled.entry) hcycled.idle

end whole

/-- A power of two of at most 16 bits divides the address space (R10). -/
theorem addressSpace_eq {k : Nat} (hk : k ≤ 16) : ∃ q, 65536 = 2 ^ k + 2 ^ k * q := by
  obtain ⟨m, hm⟩ : 2 ^ k ∣ 2 ^ 16 := Nat.pow_dvd_pow 2 hk
  cases m with
  | zero => simp at hm
  | succ q => exact ⟨q, hm.trans ((Nat.mul_succ _ _).trans (Nat.add_comm _ _))⟩

/-- The last buffer index a TRANSFER reads is that of the last buffer byte (R42). -/
theorem last_index {n : Nat} (h : bufSizeOk n = true) : 65535 % n = n - 1 := by
  have hpos := bufSize_pos h
  obtain ⟨j, hj, rfl⟩ := bufSizeOk_iff.1 h
  obtain ⟨q, hq⟩ := addressSpace_eq hj
  rw [show 65535 = 2 ^ j - 1 + 2 ^ j * q by omega, Nat.add_mul_mod_self_left, Nat.mod_eq_of_lt (by omega)]

/-- The highest address of the cell `j` (R49). -/
theorem last_address {j k : Nat} (hk : k ≤ 16) (hj : j < 2 ^ k) : (j + 65536 - 2 ^ k) % 2 ^ k = j := by
  obtain ⟨q, hq⟩ := addressSpace_eq hk
  rw [show j + 65536 - 2 ^ k = j + 2 ^ k * q by omega, Nat.add_mul_mod_self_left, Nat.mod_eq_of_lt hj]

theorem devAddrBits_le {p : Params} (h : paramsWf p = true) : p.devAddrBits ≤ 16 := of_decide_eq_true (Bool.and_eq_true_iff.1 h).2

/-- Settles O36: the cell `j` is last written in the cycle of the highest address that has it. -/
theorem transferProgramsWholeDevice : Obligations.TransferProgramsWholeDevice := by
  intro s rest hinv hs hph hover hm
  obtain ⟨u, t, hstart, hcycled, hrun⟩ := steps_wholeTransfer hinv hs hph hm
  have hparams : u.params = s.params := congrArg Prod.fst hstart.inputs
  have hbyte {a : Nat} (ha : a < 65536) : u.bufByte (cursorAddr a) = s.readBuf (a % s.bufSize) :=
    (bufByte_cursorAddr u ha).trans (State.readBuf_of_inputs hstart.inputs a)
  obtain ⟨hdr, hlo, hhi⟩ := hcycled.last 65535 rfl
  obtain ⟨-, ⟨hfault, haborted, -⟩, hpending, -, -, -⟩ := hcycled.entry
  refine ⟨t.finished, hrun, fun j hj => ?_, ?_, ?_, hhi, hlo, rfl, rfl, rfl, hpending, hfault, haborted,
    hcycled.moves.trans hstart.moves⟩
  · have hk := Nat.pow_le_pow_right (n := 2) (by omega) (devAddrBits_le hinv.params)
    have ha : j + 65536 - 2 ^ s.params.devAddrBits < 65536 := by omega
    have hcell := hcycled.cells (hparams ▸ hover) _ ha (by rw [hparams]; omega)
    rwa [State.devAddr, devIndex, cursorAddr_toNat ha, hparams, last_address (devAddrBits_le hinv.params) hj, hbyte ha] at hcell
  · rw [← hparams, ← hcycled.params_eq]
    rfl
  · rw [← last_index hinv.size, ← hbyte (by omega)]
    exact hdr

/-- What is seen of a first step, the cycles below `c` and an end (R128). -/
theorem seen_finished {s u t : State} {rest : List HostMove} {c : Nat} (hstart : s.Started u rest) (hcycled : u.Cycled t c)
    (hc : c ≤ 65536) : ∃ new, t.finished.trace = s.trace ++ new ∧ seen new = {
      writes := (List.range c).map fun i => (cursorAddr i, s.readBuf (i % s.bufSize))
      highs := (List.range (periods 256 c)).map (BitVec.ofNat 8)
      lows := (List.range c).map (BitVec.ofNat 8)
      progress := List.range (periods 1024 c)
      wd := 2 * c + periods 256 c
      wc := 4 * c + 2 * periods 256 c + 2
      complete := 1 } := by
  obtain ⟨new, hnew, hseen⟩ := hstart.trace
  refine ⟨new ++ u.cyclesTrace c ++ finishTrace t.params, ?_, ?_⟩
  · simp only [State.finished, hcycled.trace, hnew, List.append_assoc]
  · have hend : seen (finishTrace t.params) = ⟨[], [], [], [], 0, 1, 1⟩ := rfl
    rw [seen_append, seen_append, hseen, seen_cyclesTrace u hc, hend]
    simp only [Seen.add, List.nil_append, List.append_nil, State.readBuf_of_inputs hstart.inputs, Seen.mk.injEq, true_and, and_true]
    omega

/-- Settles O37: what is seen of a whole TRANSFER, at 65,536 cycles. -/
theorem transferEventCounts : Obligations.TransferEventCounts := by
  intro s rest hinv hs hph hm
  obtain ⟨u, t, hstart, hcycled, hrun⟩ := steps_wholeTransfer hinv hs hph hm
  obtain ⟨new, htrace, hseen⟩ := seen_finished hstart hcycled le_rfl
  have hrelatches : periods 256 65536 = 256 := by decide
  have hkilobytes : periods 1024 65536 = 64 := by decide
  rw [hrelatches, hkilobytes] at hseen
  simp only [seen, Seen.mk.injEq] at hseen
  obtain ⟨hwrites, hhighs, hlows, hprogress, hwd, hwc, hcomplete⟩ := hseen
  exact ⟨_, new, hrun, htrace, hwrites, hhighs, hlows, hprogress, hwd, hwc, hcomplete⟩

end Sys2Proof.Machine
end

section
/-! SUPPORT. The stops of the machine and the step boundaries (R83 case 1, R140, R145, R148, R149): a stopped machine only answers why, an
abort and a port that refuses come before the step, and a command in execution always has a step. -/

namespace Sys2Proof.Machine

/-! ### A stopped machine -/

/-- A stopped machine answers why (R83 case 1). -/
theorem step_stopped {s : State} {o : Host.Outcome State Fault Refusal} (h : stopped s = some o) : step s = o := by
  simp only [step, stepOnce, h]

/-- Settles O7: the stops are looked for in this order, before anything else. -/
theorem stoppedForGood : Obligations.StoppedForGood := by
  refine ⟨fun s r hf => ?_, fun s hf ha => ?_, fun s hf ha he => ?_⟩ <;> refine step_stopped ?_
  · simp only [stopped, hf]
  · simp only [stopped, hf, ha, if_true]
  · simp [stopped, hf, ha, Option.isSome_iff_ne_none.2 he]

/-! ### The boundaries at which the step is not taken -/

section boundary
variable {s : State} (hr : s.Running)
include hr

/-- An abort comes before everything else at its boundary (R149). -/
theorem step_abort (ha : s.choices.head? = some .abort) : step s = .next s.consumeChoice.abort := by
  rw [step, stepOnce, stopped_of_running hr]
  exact if_pos ha

/-- A step that writes the port is not taken while the port does not accept the write (R148). -/
theorem step_refused (hp : s.portRefuses = true) (hw : s.nextWritesPort = true) : step s = .next s.consumeChoice := by
  have ha : s.choices.head? ≠ some .abort := fun ha => by simp [State.portRefuses, ha] at hp
  rw [step, stepOnce, stopped_of_running hr]
  exact (if_neg ha).trans (if_pos (Bool.and_eq_true_iff.2 ⟨hp, hw⟩))

/-- A hung port leaves the state as it is (R148). -/
theorem step_hang (hh : s.choices.head? = some .hang) (hw : s.nextWritesPort = true) : step s = .next s := by
  have hstay : s.consumeChoice = s := if_pos hh
  rw [step_refused hr (by simp [State.portRefuses, hh]) hw, hstay]

end boundary

/-- Settles O9: the abort is the whole step, and the machine is stopped from then on. -/
theorem abortLosesEverything : Obligations.AbortLosesEverything := by
  intro s rest hr hch
  obtain ⟨-, hstop, -⟩ := stoppedForGood
  refine ⟨_, step_abort hr (by rw [hch]; rfl), rfl, rfl, rfl, rfl, rfl, fun _ => rfl, by simp, hstop _ ?_ rfl, ?_⟩
  · simpa using hr.1
  · rintro ⟨-, -, -, -, hab⟩
    cases hab

/-- A run that has ended well has no port write left to do (R83, R86). -/
theorem State.GoodEnd.nextWritesPort {s : State} (h : s.GoodEnd) : s.nextWritesPort = false := by
  obtain ⟨hm, hp, hu, -, -⟩ := h
  refine nextWritesPort_of_noCommand ⟨hp, hu⟩ fun w hw => ?_
  have hcommand := List.all_eq_true.1 hm _ (List.mem_of_head? hw)
  cases hcommand

/-- Settles O10: a stall only uses up its boundary, and a hang not even that, for any number of steps. -/
theorem hungPortNeverMoves : Obligations.HungPortNeverMoves := by
  refine ⟨fun s rest hr hch hw => ?_, fun s k hr hh hw => ⟨?_, fun hgood => ?_⟩⟩
  · rw [step_refused hr (by simp [State.portRefuses, hch]) hw]
    simp [State.consumeChoice, hch]
  · induction k with
    | zero => rfl
    | succ k ih => exact (steps_succ (step_hang hr hh hw)).trans ih
  · exact Bool.false_ne_true (hgood.nextWritesPort.symm.trans hw)

/-! ### A command in execution (R142) -/

/-- Performing a micro-event records no fault where no port write can fail (R14, R146). -/
theorem State.perform_fault {s : State} (hf : s.writeFails = false) (e : MicroEvent) {done : State → State}
    (hd : ∀ x, (done x).fault = x.fault) : (s.perform e done).fault = s.fault := by
  rw [State.perform_ok hf, hd, State.apply_fault]

/-- The bookkeeping of a row leaves the fault record (R124). -/
theorem Upc.finish_fault (u : Upc) (c : Nat) (t : State) : (u.finish c t).fault = t.fault := by
  cases u <;> rfl

/-- The micro-program stands at a state that reads the cursor only where it has one (R29). -/
theorem State.TransferOk.cursor_of_reads {s : State} {u : Upc} (h : s.TransferOk u) (hu : u.readsCursor = true) :
    ∃ c, s.cursor = some c := by
  obtain ⟨-, -, -, hstate⟩ := h
  cases u with
  | s0 | s11 | s12 => cases hu
  | _ =>
    obtain ⟨-, c, -, hc, -⟩ := hstate
    exact ⟨c, hc⟩

/-- A micro-program with a cursor wherever it reads one has its next micro-event (R83, R124). -/
theorem State.runMicroprogram_next {s : State} {u : Upc} (h : u.readsCursor = true → ∃ c, s.cursor = some c) :
    ∃ c, s.runMicroprogram u = .next (s.microStep u c) := by
  unfold State.runMicroprogram
  cases hc : s.cursor with
  | some c => exact ⟨c, rfl⟩
  | none =>
    refine ⟨0, if_neg fun hu => ?_⟩
    obtain ⟨c, hc'⟩ := h hu
    cases hc.symm.trans hc'

/-- With micro-events pending the step that proceeds performs their head (R83 case 2). -/
theorem advance_pending {s : State} {e : MicroEvent} {rest : List MicroEvent} (hp : s.pending = e :: rest) :
    advance s = .next (s.perform e fun t => { t with pending := rest }) := by
  simp only [advance, hp, State.runPending_cons hp]

/-- During TRANSFER the step that proceeds is the micro-program's (R83 case 2). -/
theorem advance_upc {s : State} {u : Upc} (hp : s.pending = []) (hu : s.upc = some u) : advance s = s.runMicroprogram u := by
  simp only [advance, hp, hu]

/-- Where no port write fails, a command in execution goes on and records no fault (R83, R142). -/
theorem advance_inExecution {s : State} (hs : s.SequencerOk) (hf : s.writeFails = false) (hb : ¬ s.Between) :
    ∃ u, advance s = .next u ∧ u.fault = s.fault := by
  cases hp : s.pending with
  | cons e rest => exact ⟨_, advance_pending hp, State.perform_fault hf e fun _ => rfl⟩
  | nil =>
    cases hu : s.upc with
    | none => exact absurd ⟨hp, hu⟩ hb
    | some u =>
      obtain ⟨c, hrow⟩ := State.runMicroprogram_next (hs.transferOk hu).cursor_of_reads
      exact ⟨_, (advance_upc hp hu).trans hrow, State.perform_fault hf _ (u.finish_fault c)⟩

/-- Settles O49: an abort and a refusing port record no fault, and the step that proceeds is that of the command in execution. -/
theorem admittedCommandNeverFaults : Obligations.AdmittedCommandNeverFaults := by
  intro s hinv hr hinf hb
  have ⟨hfault, haborted, _⟩ := hr
  by_cases ha : s.choices.head? = some .abort
  · exact ⟨_, step_abort hr ha, by simpa using hfault⟩
  by_cases hp : s.portRefuses = true ∧ s.nextWritesPort = true
  · exact ⟨_, step_refused hr hp.1 hp.2, by simpa using hfault⟩
  have hf : s.writeFails = false := by simp [State.writeFails, hinf]
  obtain ⟨u, hadv, hu⟩ := advance_inExecution (hinv.sequencer hfault haborted) hf hb
  exact ⟨u.consumeChoice, by rw [step_eq_advance hr ha hp, hadv]; rfl, by simpa [hu] using hfault⟩

end Sys2Proof.Machine
end

section
/-! SUPPORT. The faults a command can record: those of its admission (R141, R147), and that of a failed port write wherever one stands,
with the position it leaves (R140, R146). -/

namespace Sys2Proof.Machine

/-! ### The faults of admission -/

/-- Settles O40: the first check that fails decides, and a refused command records its fault only. -/
theorem admissionFaults : Obligations.AdmissionFaults := by
  refine fun s b a => ⟨fun i hi ho => ?_, fun i hi ho hp => ?_, fun i hi ho hp => ?_, fun hs hne => ?_, fun hs ha hne => ?_⟩
  · simp only [List.mem_cons, List.not_mem_nil, or_false] at hi
    rcases hi with rfl | rfl | rfl | rfl | rfl | rfl | rfl <;> exact exec_closed ho nofun nofun
  · simp only [List.mem_cons, List.not_mem_nil, or_false] at hi
    rcases hi with rfl | rfl | rfl | rfl | rfl <;> exact exec_faulted nofun nofun (admission_notEnabled ho hp rfl)
  · simp only [List.mem_cons, List.not_mem_nil, or_false] at hi
    rcases hi with rfl | rfl <;> exact exec_faulted nofun nofun (admission_alreadyEnabled ho hp rfl)
  · exact exec_faulted nofun nofun (admission_strobe_unlatched hs b hne)
  · exact exec_faulted nofun nofun (admission_cycle_unlatched hs ha hne)

/-! ### A failed write in the step that takes its command -/

/-- In a session STROBE is admitted with both latches held (R110). -/
theorem admission_strobe {s : State} {h l : Byte} (hs : s.InSession) (hh : s.latHi = .held h) (hl : s.latLo = .held l) (b : Byte) :
    admission (.strobe b) s = none := by
  rw [admission_session hs.1 hs.2 rfl, latchFault, hh, hl]
  rfl

section command
variable {s : State} {e : MicroEvent}

/-- What has failed does not depend on what the sequencer's registers were before the command set them. -/
theorem FailedAt.of_sequencer {w : Option CommandWord} {p : List MicroEvent} {u : Option Upc}
    {o : Host.Outcome State Fault Refusal} (h : FailedAt e w p u { s with word := w, pending := p, upc := u } o) :
    FailedAt e w p u s o := by
  unfold FailedAt at h ⊢
  rw [h, State.lost_sequencer]

/-- Taking a command that is admitted and whose first step, with `pending` and `upc` set to its own, is a port write that fails
(R83, R146). -/
theorem failedAt_takeCommand {i : Instr} {done : State → State} {p : List MicroEvent} {u : Option Upc} (h : s.writeFails = true)
    (he : e.isPortWrite = true) (ha : admission i s = none) {run : State → State}
    (hrun : run { s with word := commandWordOf i } =
      State.perform e done { s with word := commandWordOf i, pending := p, upc := u }) :
    FailedAt e (commandWordOf i) p u s (.next (s.takeCommand i run)) := by
  rw [State.takeCommand_ok ha, hrun]
  exact FailedAt.of_sequencer
    (failedAt_perform (s := { s with word := commandWordOf i, pending := p, upc := u }) h he done)

end command

/-! ### A failed write of a command in execution -/

section step
variable {s : State} {later : List Choice}

/-- What a port write that fails leaves is what R146 says, at the position it stood at. -/
theorem failedAt_failWrite {e : MicroEvent} (he : e.isPortWrite = true) :
    FailedAt e s.word s.pending s.upc s (.next (s.failWrite e)) := by
  cases e with
  | wrData v | wrCtrl v => rfl
  | progress k | complete => cases he

/-- Passing a boundary uses up its failure. -/
theorem State.consumeChoice_writeFails (h : s.choices = .writeFails :: later) : s.consumeChoice = s.withChoices later := by
  simp [State.consumeChoice, State.withChoices, h]

variable (hr : s.Running) (hinf : s.params.portWriteFallible = true) (hch : s.choices = .writeFails :: later)
include hr hinf hch

/-- A step that performs a port write at a boundary whose choice is that it fails (R83, R146). -/
theorem failedAt_step {e : MicroEvent} {done : State → State} (he : e.isPortWrite = true)
    (hadv : advance s = .next (s.perform e done)) :
    FailedAt e s.word s.pending s.upc { s with choices := later } (step s) := by
  have hf : s.writeFails = true := by simp [State.writeFails, hinf, hch]
  have hch' : (s.failWrite e).choices = .writeFails :: later := (State.failWrite_choices s e).trans hch
  have hstep : step s = .next ((s.withChoices later).failWrite e) := by
    rw [step, stepOnce_of_running (stopped_of_running hr) hch (.inr rfl), hadv, State.perform_fails hf he, onNext,
      State.consumeChoice_writeFails hch', State.failWrite_withChoices]
  rw [hstep]
  exact failedAt_failWrite he

/-- The head of `pending` fails (R83 case 2, R146). -/
theorem failedAt_pending {e : MicroEvent} {rest : List MicroEvent} (hp : s.pending = e :: rest) (he : e.isPortWrite = true) :
    FailedAt e s.word s.pending s.upc { s with choices := later } (step s) :=
  failedAt_step hr hinf hch he (advance_pending hp)

/-- The event of a state of the micro-program fails (R83 case 2, R124, R146). -/
theorem failedAt_row {u : Upc} {c : Nat} (hp : s.pending = []) (hu : s.upc = some u)
    (hrow : s.runMicroprogram u = .next (s.microStep u c)) (he : (u.event c s).isPortWrite = true) :
    FailedAt (u.event c s) s.word [] (some u) { s with choices := later } (step s) := by
  rw [← hp, ← hu]
  exact failedAt_step hr hinf hch he ((advance_upc hp hu).trans hrow)

end step

/-- The states of the micro-program but S1 and S12 write the port (R124). -/
theorem Upc.event_isPortWrite_of_ne {u : Upc} (h1 : u ≠ .s1) (h12 : u ≠ .s12) (c : Nat) (s : State) :
    (u.event c s).isPortWrite = true := by
  cases u with
  | s1 => exact absurd rfl h1
  | s12 => exact absurd rfl h12
  | _ => rfl

/-- Settles O59: the record is taken before the failed micro-event is removed or `upc` moves, in each place a port write stands. -/
theorem failedWritePosition : Obligations.FailedWritePosition := by
  refine ⟨fun v s hf => ⟨failedAt_perform hf rfl id, failedAt_perform hf rfl id⟩, fun s hf ho hp => ⟨?_, ?_⟩,
    fun b s hf hs => ⟨?_, ?_, ?_, fun h l hh hl => ?_⟩, fun a s hf hs => ⟨fun hp hk => ?_, fun h hk hh => ?_⟩,
    fun s later hr hinf hch => ⟨fun e rest hp he => failedAt_pending hr hinf hch hp he, fun q c hp hu hc h1 h12 => ?_⟩⟩
  · exact failedAt_takeCommand hf rfl (admission_outside ho hp (.inl rfl)) rfl
  · exact failedAt_takeCommand hf rfl (admission_outside ho hp (.inr rfl)) rfl
  · exact failedAt_takeCommand hf rfl (admission_session hs.1 hs.2 rfl) rfl
  · rw [← commandWordOf_latchLow]
    exact failedAt_start hf rfl (admission_session hs.1 hs.2 rfl)
  · rw [← commandWordOf_latchHigh]
    exact failedAt_start hf rfl (admission_session hs.1 hs.2 rfl)
  · rw [← commandWordOf_strobe]
    exact failedAt_start hf rfl (admission_strobe hs hh hl b)
  · rw [← commandWordOf_cycle, exec, execCycle, expansion, cycleEvents_relatch _ _ hp hk]
    exact failedAt_start hf rfl (admission_cycle hs (.inl (relatchDue_of_mod hk)))
  · rw [← commandWordOf_cycle, exec, execCycle, expansion, cycleEvents_keep _ _ hk]
    exact failedAt_start hf rfl (admission_cycle hs (.inr (by rw [hh]; rfl)))
  · have hrow : s.runMicroprogram q = .next (s.microStep q c) := by simp only [State.runMicroprogram, hc]
    exact failedAt_row hr hinf hch hp hu hrow (Upc.event_isPortWrite_of_ne h1 h12 c s)

/-- Settles O22: the places of O59, with the event of each state of the micro-program written out; S0 and S11 need no cursor. -/
theorem failedWriteFaults : Obligations.FailedWriteFaults := by
  obtain ⟨hmicro, houtside, hsession, hcycle, hstep⟩ := failedWritePosition
  refine ⟨fun s hinf => by simp [State.writeFails, hinf], fun v s hf => ?_, fun s hf ho hp q hq => ?_, fun b s hf hs => ?_,
    fun a s hf hs => ?_, fun s later hr hinf hch => ?_⟩
  · obtain ⟨hdata, hctrl⟩ := hmicro v s hf
    exact ⟨⟨_, _, hdata⟩, _, _, hctrl⟩
  · obtain ⟨henable, htransfer⟩ := houtside s hf ho hp
    simp only [List.mem_cons, List.not_mem_nil, or_false] at hq
    obtain rfl | rfl := hq
    · exact ⟨_, _, henable⟩
    · exact ⟨_, _, htransfer⟩
  · obtain ⟨hdisable, hlow, hhigh, hstrobe⟩ := hsession b s hf hs
    exact ⟨⟨_, _, hdisable⟩, ⟨_, _, hlow⟩, ⟨_, _, hhigh⟩, fun h l hh hl => ⟨_, _, hstrobe h l hh hl⟩⟩
  · obtain ⟨hrelatch, hkeep⟩ := hcycle a s hf hs
    exact ⟨fun hp hk => ⟨_, _, hrelatch hp hk⟩, fun h hk hh => ⟨_, _, hkeep h hk hh⟩⟩
  · obtain ⟨hpending, hrow⟩ := hstep s later hr hinf hch
    refine ⟨fun e rest hp he => ⟨_, _, hpending e rest hp he⟩, fun c hp hc hlt q hq hu => ?_, fun c hp hc q hq hu => ?_,
      fun hp q hq hu => ?_⟩ <;> simp only [List.mem_cons, List.not_mem_nil, or_false] at hq
    · rw [← highByte_cursorAddr, ← lowByte_cursorAddr, ← bufByte_cursorAddr s hlt] at hq
      rcases hq with rfl | rfl | rfl <;> exact ⟨_, _, hrow _ c hp hu hc nofun nofun⟩
    · rcases hq with rfl | rfl | rfl | rfl | rfl | rfl <;> exact ⟨_, _, hrow _ c hp hu hc nofun nofun⟩
    · rcases hq with rfl | rfl
      · obtain ⟨c, hnext⟩ := State.runMicroprogram_next (s := s) (u := .s0) nofun
        exact ⟨_, _, failedAt_row hr hinf hch hp hu hnext rfl⟩
      · obtain ⟨c, hnext⟩ := State.runMicroprogram_next (s := s) (u := .s11) nofun
        exact ⟨_, _, failedAt_row hr hinf hch hp hu hnext rfl⟩

end Sys2Proof.Machine
end

section
/-! SUPPORT. The host's contract (R163 to R171): the size rule, the buffer of a file, the boot order with its exits, and the port
close. -/

namespace Sys2Proof.Machine

/-! ### The port close -/

/-- Settles O13: the close is the host's move, and `State.closePort` is the state it gives. -/
theorem portCloseKeepsDevice : Obligations.PortCloseKeepsDevice :=
  fun _ _ hr hb hch hm => step_hostMove hr hb hch hm rfl

/-! ### The buffer -/

/-- Settles O57: reading the built memory with its fill byte gives the first `n` bytes and then the fill. -/
theorem bufferFromFile : Obligations.BufferFromFile := by
  intro n file s i hbuf _ hi
  have hread : s.readBuf i = (file.take n).getD i Config.fill := by
    have h := Memory.read_ofBytes Config.fill 0 (file.take n) i
    rwa [Nat.zero_add, ← buildBuffer, ← hbuf] at h
  rw [hread]
  by_cases hlen : i < file.length
  · simp [hi, hlen]
  · simp [hlen, Config.fill]

/-! ### The size rule -/

/-- A string is read as a number exactly when all its characters are decimal digits, and then digit by digit (R166). -/
theorem decimalFrom_eq_some_iff (cs : List Char) (acc v : Nat) : decimalFrom acc cs = some v ↔
    (∀ c ∈ cs, 48 ≤ c.toNat ∧ c.toNat ≤ 57) ∧ v = cs.foldl (fun n c => 10 * n + (c.toNat - 48)) acc := by
  induction cs generalizing acc with
  | nil => simp [decimalFrom, eq_comm]
  | cons c cs ih =>
    by_cases hc : 48 ≤ c.toNat ∧ c.toNat ≤ 57
    · simp [decimalFrom, hc, ih]
    · simp [decimalFrom, hc]

/-- The empty string is no number (R166). -/
theorem parseDecimal_eq_some_iff (cs : List Char) (v : Nat) : parseDecimal cs = some v ↔ cs ≠ [] ∧ decimalFrom 0 cs = some v := by
  cases cs <;> simp [parseDecimal]

/-- A number of kilobytes is a buffer size exactly when it is a power of two up to 64 (R11, R166). -/
theorem kilobytes_eq_two_pow_iff (v : Nat) : (∃ j ≤ 16, v * 1024 = 2 ^ j) ↔ ∃ j ≤ 6, v = 2 ^ j := by
  have hsplit (j : Nat) : 2 ^ j * 1024 = 2 ^ (j + 10) := (pow_add 2 j 10).symm
  constructor
  · rintro ⟨j, hj, hv⟩
    have hpos : 0 < 2 ^ j := Nat.two_pow_pos j
    have hj10 : 10 ≤ j := (Nat.pow_le_pow_iff_right one_lt_two).1 (show 2 ^ 10 ≤ 2 ^ j by omega)
    refine ⟨j - 10, by omega, Nat.eq_of_mul_eq_mul_right (show 0 < 1024 by decide) ?_⟩
    rw [hv, hsplit, Nat.sub_add_cancel hj10]
  · rintro ⟨j, hj, rfl⟩
    exact ⟨j + 10, by omega, hsplit j⟩

/-- The value of a size argument is in range and of an accepted size exactly when it is one of 1, 2, 4, …, 65536 (R166). -/
theorem acceptedValue_iff (v : Nat) :
    (1 ≤ v ∧ v ≤ Config.maxSize ∧ bufSizeOk (effectiveSize v) = true) ↔ ∃ j, j ≤ 16 ∧ v = 2 ^ j := by
  have hle (j : Nat) (hj : j ≤ 16) : 1 ≤ 2 ^ j ∧ 2 ^ j ≤ Config.maxSize := ⟨Nat.one_le_two_pow, Nat.pow_le_pow_right two_pos hj⟩
  rw [bufSizeOk_iff]
  by_cases hv : v ≤ Config.kbThreshold
  · rw [effectiveSize, if_pos hv, kilobytes_eq_two_pow_iff]
    constructor
    · rintro ⟨-, -, j, hj, hpow⟩
      exact ⟨j, by omega, hpow⟩
    · rintro ⟨j, hj, rfl⟩
      have hj6 : j ≤ 6 := (Nat.pow_le_pow_iff_right one_lt_two).1 hv
      exact ⟨(hle j hj).1, (hle j hj).2, j, hj6, rfl⟩
  · rw [effectiveSize, if_neg hv]
    constructor
    · exact fun h => h.2.2
    · rintro ⟨j, hj, rfl⟩
      exact ⟨(hle j hj).1, (hle j hj).2, j, hj, rfl⟩

/-- The size rule gives the effective size of an accepted value, and no other (R166). -/
theorem sizeRule_eq_some_iff (arg : List Char) (n : Nat) :
    sizeRule arg = some n ↔ ∃ v, parseDecimal arg = some v ∧ (∃ j, j ≤ 16 ∧ v = 2 ^ j) ∧ n = effectiveSize v := by
  unfold sizeRule
  cases parseDecimal arg with
  | none => simp
  | some v => simp only [acceptedValue_iff, Option.ite_none_right_eq_some, Option.some.injEq, exists_eq_left', eq_comm (a := n)]

/-- An accepted argument gives one of the buffer sizes of R11. -/
theorem bufSizeOk_of_sizeRule {arg : List Char} {n : Nat} (h : sizeRule arg = some n) : bufSizeOk n = true := by
  obtain ⟨v, -, hpow, rfl⟩ := (sizeRule_eq_some_iff arg n).1 h
  exact ((acceptedValue_iff v).2 hpow).2.2

/-! ### The boot -/

section chosen
variable {inv : Invocation} {n : Nat}

/-- Without a size argument the size is the default, with one it is that of the size rule (R165, R166). -/
theorem chosenSize_eq_some (h : inv.size = none ∧ n = 65536 ∨ ∃ arg, inv.size = some arg ∧ sizeRule arg = some n) :
    chosenSize inv = some n := by
  obtain ⟨hs, rfl⟩ | ⟨arg, hs, hn⟩ := h
  · simp only [chosenSize, hs, Config.maxSize]
  · simp only [chosenSize, hs, hn]

/-- A rejected argument leaves no size (R166). -/
theorem chosenSize_eq_none {arg : List Char} (hs : inv.size = some arg) (hn : sizeRule arg = none) : chosenSize inv = none := by
  simp only [chosenSize, hs, hn]

/-- A chosen size is one of the buffer sizes of R11. -/
theorem bufSizeOk_of_chosenSize (h : chosenSize inv = some n) : bufSizeOk n = true := by
  unfold chosenSize at h
  split at h
  · obtain rfl := Option.some.inj h
    decide
  · exact bufSizeOk_of_sizeRule h

end chosen

/-- Where the preparation fails, the host starts having exited with status 1 (R143, R164). -/
theorem boot_of_failed {inv : Invocation} (h : inv.file = .missing ∨ inv.file = .unreadable ∨ chosenSize inv = none) :
    boot inv = { State.unopened with hostExit := some .failure } := by
  have hprep : ∃ e, prepare inv = .failed e := by
    unfold prepare
    split
    case h_4 hf hn => simp [hf, hn] at h
    all_goals exact ⟨_, rfl⟩
  obtain ⟨e, he⟩ := hprep
  simp only [boot, he]

/-- With a file and a size, the host starts with the file's buffer and its four moves to make (R164). -/
theorem boot_of_contents {inv : Invocation} {bytes : List Byte} {n : Nat} (hf : inv.file = .contents bytes)
    (hn : chosenSize inv = some n) : boot inv =
    { State.unopened with
      params := { Params.reference with portId := inv.port }
      bufSize := n, buf := buildBuffer n bytes
      hostMoves := [.portOpen inv.portOpens, .command transferWord, .portClose, .exit .success] } := by
  simp only [boot, prepare, hf, hn]

/-- Settles O56: the three parts are the reading of the digits, the accepted values and the boot with the chosen size. -/
theorem sizeRuleAccepts : Obligations.SizeRuleAccepts := by
  intro arg
  refine ⟨fun v => ?_, sizeRule_eq_some_iff arg, fun inv hs => ⟨fun hn => ?_, fun n bytes hn hf => ?_⟩⟩
  · rw [parseDecimal_eq_some_iff, decimalFrom_eq_some_iff]
  · rw [boot_of_failed (.inr (.inr (chosenSize_eq_none hs hn)))]
  · rw [boot_of_contents hf (chosenSize_eq_some (.inr ⟨arg, hs, hn⟩))]

/-- No rule reads `PORT_ID`, so the parameters are as good with any (R12, R61). -/
theorem paramsWf_withPortId (p : Params) (x : Option (List Char)) : paramsWf { p with portId := x } = paramsWf p := rfl

/-- A port open gives a state that meets the invariant, from good parameters and a good buffer (R36, R163). -/
theorem inv_openPort {s : State} (hp : paramsWf s.params = true) (hbuf : s.bufWf) (hn : bufSizeOk s.bufSize = true) :
    s.openPort.Inv where
  params := hp
  dev := ⟨.nil, nofun⟩
  buf := hbuf
  size := hn
  sequencer := fun _ _ => sequencerOk_openPort s

/-- Settles O58: the boot either has exited or stands before the port open, and each move of the host is one step. -/
theorem bootOrder : Obligations.BootOrder := by
  obtain ⟨-, -, hexited⟩ := stoppedForGood
  refine ⟨fun inv h => ?_, fun inv bytes n hf hsize => ?_, fun s status rest hr hb hch hm => ?_⟩
  · have hfail : inv.file = .missing ∨ inv.file = .unreadable ∨ chosenSize inv = none :=
      h.imp_right (Or.imp_right fun ⟨_, hs, hn⟩ => chosenSize_eq_none hs hn)
    rw [boot_of_failed hfail]
    exact ⟨rfl, rfl, rfl, hexited _ rfl rfl nofun⟩
  · have hn := chosenSize_eq_some hsize
    have hp : paramsWf { Params.reference with portId := inv.port } = true := (paramsWf_withPortId _ _).trans (by decide)
    rw [boot_of_contents hf hn]
    refine ⟨rfl, rfl, rfl, rfl, rfl, fun ho => ?_, fun ho => ?_⟩ <;> rw [ho]
    · exact ⟨_, step_hostMove ⟨rfl, rfl, rfl⟩ ⟨rfl, rfl⟩ rfl rfl rfl, rfl, rfl, rfl⟩
    · exact ⟨_, step_hostMove ⟨rfl, rfl, rfl⟩ ⟨rfl, rfl⟩ rfl rfl rfl,
        inv_openPort hp (buildBuffer_wf n bytes) (bufSizeOk_of_chosenSize hn),
        ⟨⟨rfl, rfl, rfl⟩, ⟨rfl, rfl⟩, rfl, rfl, hp⟩, rfl, rfl, rfl, rfl⟩
  · have ⟨hfault, haborted, _⟩ := hr
    exact ⟨step_hostMove hr hb hch hm rfl, hexited _ hfault haborted nofun⟩

end Sys2Proof.Machine
end
